-- ==== Sys2Proof/Word.lean ====
section
/-! DEFINITION. The word types of the block (spec/00_scope.md R6, R10: every quantity is an unsigned bit vector of a
stated width). -/

namespace Sys2Proof

/-- A wire byte (30_encoding.md R70). -/
abbrev Byte := BitVec 8

/-- A nibble: a channel, a slot's contents, half a byte (00_scope.md R6). -/
abbrev Nibble := BitVec 4

/-- The 7 bits of value a data byte carries (30_encoding.md R70). -/
abbrev Data7 := BitVec 7

/-- A timestamp, `TSW` = 64 opaque bits (00_scope.md R5, 30_encoding.md R84). -/
abbrev Stamp := BitVec 64

end Sys2Proof
end

