-- ==== Sys2Proof/Config.lean ====
section
/-! DEFINITION. What a build of the block fixes (spec/00_scope.md R5), and the values the spec leaves free. -/

namespace Sys2Proof

/-- The build parameters that operations read. They stand in State so that every statement holds for every value of
them; no operation writes them (10_state.md R33). DESIGN CHOICE, notes/assumptions/1.md and 3.md. -/
structure Params where
  /-- `SYSEX_CAP`: how many payload bytes the reassembly buffer holds. -/
  sysexCap : Nat
  /-- `MTC_CLEAR_ON_FRAME`: whether producing a frame also zeroes the slots (42_mtc.md R219). -/
  mtcClearOnFrame : Bool
deriving DecidableEq, Repr

/-- `SYSEX_CAP` less one: OPEN in the spec (00_scope.md R5, decision D1), so it has no body. -/
opaque Config.sysexCapLessOne : Nat

/-- `SYSEX_CAP` of the build: some natural number ≥ 1 (notes/assumptions/1.md). -/
def Config.sysexCap : Nat := Config.sysexCapLessOne + 1

/-- `N_STREAMS` less one: OPEN in the spec (00_scope.md R5, decision D2), so it has no body. -/
opaque Config.nStreamsLessOne : Nat

/-- `N_STREAMS` of the build: some natural number ≥ 1 (notes/assumptions/2.md). -/
def Config.nStreams : Nat := Config.nStreamsLessOne + 1

/-- `MTC_CLEAR_ON_FRAME`: the spec's default (00_scope.md R5, decision D20; notes/assumptions/3.md). -/
def Config.mtcClearOnFrame : Bool := false

/-- The build's parameters. -/
def Config.params : Params := ⟨Config.sysexCap, Config.mtcClearOnFrame⟩

/-- `LENW`, the width of `sx_len`: `ceil(log2(SYSEX_CAP + 1))`, the least number of bits that holds `cap`
(00_scope.md R5). -/
def Config.lenw (cap : Nat) : Nat := if cap = 0 then 0 else Nat.log2 cap + 1

/-- FREE VALUE: `pend_status` of stream number `stream` after its `draw`-th reset, which 10_state.md R38 leaves
unspecified (notes/assumptions/7.md). -/
opaque Config.freePendStatus : (stream draw : Nat) → Byte

/-- FREE VALUE: `pend_d0` of stream number `stream` after its `draw`-th reset, which 10_state.md R38 leaves unspecified
(notes/assumptions/7.md). -/
opaque Config.freePendD0 : (stream draw : Nat) → Data7

end Sys2Proof
end

