-- ==== Sys2Proof/Syntax.lean ====
section
/-! DEFINITION. Messages, the message record at the ports, and the instructions: one constructor of `Instr` per row of
spec/opcode_table.json. -/

namespace Sys2Proof

/-- A message without its timestamp: the tagged union of 30_encoding.md R82, one constructor per kind, each with the
fields the kind has. -/
inductive Body where
  | noteOff (channel : Nibble) (data0 data1 : Data7)
  | noteOn (channel : Nibble) (data0 data1 : Data7)
  | polyPressure (channel : Nibble) (data0 data1 : Data7)
  | controlChange (channel : Nibble) (data0 data1 : Data7)
  | programChange (channel : Nibble) (data0 : Data7)
  | channelPressure (channel : Nibble) (data0 : Data7)
  | pitchBend (channel : Nibble) (data0 data1 : Data7)
  | sysEx (payload : List Byte)
  | mtcQuarterFrame (rawByte : Data7)
  | songPosition (beats : BitVec 16)
  | songSelect (songNumber : Data7)
  | tuneRequest
  | clock
  | start
  | cont
  | stop
  | activeSense
  | reset
deriving DecidableEq, Repr

/-- A message: "All variants carry a `timestamp`" (30_encoding.md R82, R84). -/
structure Message where
  body : Body
  timestamp : Stamp
deriving DecidableEq, Repr

/-- The flat record in which a message crosses the block's ports (30_encoding.md R83). -/
structure MsgRecord where
  kind : Byte
  channel : Nibble
  data0 : Data7
  data1 : Data7
  beats : BitVec 16
  length : Nat
  payload : List Byte
  timestamp : Stamp
deriving DecidableEq, Repr

/-- The Timecode Frame MTC produces (42_mtc.md R212). -/
structure Frame where
  hours : BitVec 5
  minutes : BitVec 8
  seconds : BitVec 8
  frames : BitVec 5
  rate : BitVec 2
deriving DecidableEq, Repr

/-- The instructions. The first 24 are the wire rows: DEC is given that byte with the timestamp `ts`
(notes/assumptions/16.md). The last nine are the host operations of 30_encoding.md R87. -/
inductive Instr where
  | data (d : Data7) (ts : Stamp)
  | noteOff (c : Nibble) (ts : Stamp)
  | noteOn (c : Nibble) (ts : Stamp)
  | polyPressure (c : Nibble) (ts : Stamp)
  | controlChange (c : Nibble) (ts : Stamp)
  | programChange (c : Nibble) (ts : Stamp)
  | channelPressure (c : Nibble) (ts : Stamp)
  | pitchBend (c : Nibble) (ts : Stamp)
  | sysExStart (ts : Stamp)
  | mtcQuarterFrame (ts : Stamp)
  | songPosition (ts : Stamp)
  | songSelect (ts : Stamp)
  | reservedF4 (ts : Stamp)
  | reservedF5 (ts : Stamp)
  | tuneRequest (ts : Stamp)
  | sysExEnd (ts : Stamp)
  | clock (ts : Stamp)
  | reservedF9 (ts : Stamp)
  | start (ts : Stamp)
  | cont (ts : Stamp)
  | stop (ts : Stamp)
  | reservedFD (ts : Stamp)
  | activeSense (ts : Stamp)
  | reset (ts : Stamp)
  | decByte (b : Byte) (ts : Stamp)
  | decEnd
  | decReset
  | encMsg (m : MsgRecord)
  | mtcPush (qf : Byte)
  | mtcReset
  | sppEnc (beats : BitVec 16)
  | sppDec (lsb msb : Data7)
  | rst
deriving DecidableEq, Repr

/-- The operand ports of an instance's command port: an operation reads those 30_encoding.md R87 gives it and no
other. -/
structure OpPorts where
  b : Byte
  ts : Stamp
  msg : MsgRecord
  qf : Byte
  beats : BitVec 16
  lsb : Data7
  msb : Data7
deriving DecidableEq, Repr

/-- What the host presents: a byte of the wire stream with its arrival's timestamp, or an operation code with the
operand ports. The two spaces are those of spec/opcode_table.json ("wire", "host-operation"). -/
inductive PortWord where
  | wire (b : Byte) (ts : Stamp)
  | op (code : BitVec 4) (ports : OpPorts)
deriving DecidableEq, Repr

/-- One issue of the host: what it presents, and the number of the stream instance whose port it uses
(notes/assumptions/2.md). -/
structure Command where
  stream : Nat
  word : PortWord
deriving DecidableEq, Repr

end Sys2Proof
end

