-- ==== Sys2Proof/WellFormed.lean ====
section
/-! DEFINITION. Which instructions a port can present. Every width is in the types; the one relation between fields
left is that a SysEx record's payload has `length` bytes (spec/30_encoding.md R83). -/

namespace Sys2Proof

/-- "`payload` | `length` bytes of 8 bits | SysEx" (30_encoding.md R83). Other kinds use neither field, and ENC ignores
them whatever they hold (41_encoder.md R172). -/
def MsgRecord.wf (m : MsgRecord) : Bool := m.kind != 0xF0#8 || m.payload.length == m.length

/-- Well-formedness of an instruction (notes/assumptions/10.md). -/
def WellFormed : Instr → Bool
  | .data _ _ => true
  | .noteOff _ _ => true
  | .noteOn _ _ => true
  | .polyPressure _ _ => true
  | .controlChange _ _ => true
  | .programChange _ _ => true
  | .channelPressure _ _ => true
  | .pitchBend _ _ => true
  | .sysExStart _ => true
  | .mtcQuarterFrame _ => true
  | .songPosition _ => true
  | .songSelect _ => true
  | .reservedF4 _ => true
  | .reservedF5 _ => true
  | .tuneRequest _ => true
  | .sysExEnd _ => true
  | .clock _ => true
  | .reservedF9 _ => true
  | .start _ => true
  | .cont _ => true
  | .stop _ => true
  | .reservedFD _ => true
  | .activeSense _ => true
  | .reset _ => true
  | .decByte _ _ => true
  | .decEnd => true
  | .decReset => true
  | .encMsg m => m.wf
  | .mtcPush _ => true
  | .mtcReset => true
  | .sppEnc _ => true
  | .sppDec _ _ => true
  | .rst => true

end Sys2Proof
end

