-- ==== Sys2Proof/Decode.lean ====
section
/-! DEFINITION. The decoder (total on every byte and every operation code, refusing by name) and, after it, the encoder,
both from the tables of spec/30_encoding.md R72 to R79 and R87. -/

namespace Sys2Proof

/-- Why the decoder refuses a word: operation codes 0x0 and 0xA to 0xF "select no operation" (30_encoding.md R87). -/
inductive DecodeError where
  | unassignedOperation (code : BitVec 4)
deriving DecidableEq, Repr

/-- `b[6:0]`, the value of a data byte (30_encoding.md R70). -/
def low7 (b : Byte) : Data7 := b.extractLsb' 0 7

/-- `b[3:0]` (00_scope.md R6). -/
def lowNibble (b : Byte) : Nibble := b.extractLsb' 0 4

/-- `b[7:4]` (00_scope.md R6). -/
def highNibble (b : Byte) : Nibble := b.extractLsb' 4 4

/-- `(kind << 4) | channel`, the status byte of a channel message (30_encoding.md R73). -/
def channelStatus (kind channel : Nibble) : Byte := (kind.setWidth 8 <<< 4) ||| channel.setWidth 8

/-- `zext_8(d)`: a 7-bit value as a data byte (30_encoding.md R70). -/
def dataByte (d : Data7) : Byte := d.setWidth 8

/-- The system statuses 0xF0 to 0xFF, by their low nibble (30_encoding.md R72, R75 to R78). -/
def decodeSystem (n : Nibble) (ts : Stamp) : Instr :=
  match n.toNat with
  | 0x0 => .sysExStart ts
  | 0x1 => .mtcQuarterFrame ts
  | 0x2 => .songPosition ts
  | 0x3 => .songSelect ts
  | 0x4 => .reservedF4 ts
  | 0x5 => .reservedF5 ts
  | 0x6 => .tuneRequest ts
  | 0x7 => .sysExEnd ts
  | 0x8 => .clock ts
  | 0x9 => .reservedF9 ts
  | 0xA => .start ts
  | 0xB => .cont ts
  | 0xC => .stop ts
  | 0xD => .reservedFD ts
  | 0xE => .activeSense ts
  | _ => .reset ts

/-- The wire row of a byte: "Every one of the 256 byte values falls in exactly one row" (30_encoding.md R72). -/
def decodeWire (b : Byte) (ts : Stamp) : Instr :=
  match (highNibble b).toNat with
  | 0x8 => .noteOff (lowNibble b) ts
  | 0x9 => .noteOn (lowNibble b) ts
  | 0xA => .polyPressure (lowNibble b) ts
  | 0xB => .controlChange (lowNibble b) ts
  | 0xC => .programChange (lowNibble b) ts
  | 0xD => .channelPressure (lowNibble b) ts
  | 0xE => .pitchBend (lowNibble b) ts
  | 0xF => decodeSystem (lowNibble b) ts
  | _ => .data (low7 b) ts

/-- The operation an operation code selects, with the operands its ports hold (30_encoding.md R87). -/
def decodeOp (code : BitVec 4) (p : OpPorts) : Except DecodeError Instr :=
  match code.toNat with
  | 0x1 => .ok (.decByte p.b p.ts)
  | 0x2 => .ok .decEnd
  | 0x3 => .ok .decReset
  | 0x4 => .ok (.encMsg p.msg)
  | 0x5 => .ok (.mtcPush p.qf)
  | 0x6 => .ok .mtcReset
  | 0x7 => .ok (.sppEnc p.beats)
  | 0x8 => .ok (.sppDec p.lsb p.msb)
  | 0x9 => .ok .rst
  | _ => .error (.unassignedOperation code)

/-- The decoder: total on everything a port can present. -/
def decode : PortWord → Except DecodeError Instr
  | .wire b ts => .ok (decodeWire b ts)
  | .op code p => decodeOp code p

/-! ## The encoder -/

/-- A record with every field zero. -/
def MsgRecord.zero : MsgRecord := ⟨0, 0, 0, 0, 0, 0, [], 0⟩

/-- Operand ports that all hold zero: what an operation does not read. -/
def OpPorts.zero : OpPorts := ⟨0, 0, MsgRecord.zero, 0, 0, 0, 0⟩

/-- What the host presents for an instruction; ports the operation does not read hold zero. -/
def encode : Instr → PortWord
  | .data d ts => .wire (dataByte d) ts
  | .noteOff c ts => .wire (channelStatus 0x8 c) ts
  | .noteOn c ts => .wire (channelStatus 0x9 c) ts
  | .polyPressure c ts => .wire (channelStatus 0xA c) ts
  | .controlChange c ts => .wire (channelStatus 0xB c) ts
  | .programChange c ts => .wire (channelStatus 0xC c) ts
  | .channelPressure c ts => .wire (channelStatus 0xD c) ts
  | .pitchBend c ts => .wire (channelStatus 0xE c) ts
  | .sysExStart ts => .wire 0xF0 ts
  | .mtcQuarterFrame ts => .wire 0xF1 ts
  | .songPosition ts => .wire 0xF2 ts
  | .songSelect ts => .wire 0xF3 ts
  | .reservedF4 ts => .wire 0xF4 ts
  | .reservedF5 ts => .wire 0xF5 ts
  | .tuneRequest ts => .wire 0xF6 ts
  | .sysExEnd ts => .wire 0xF7 ts
  | .clock ts => .wire 0xF8 ts
  | .reservedF9 ts => .wire 0xF9 ts
  | .start ts => .wire 0xFA ts
  | .cont ts => .wire 0xFB ts
  | .stop ts => .wire 0xFC ts
  | .reservedFD ts => .wire 0xFD ts
  | .activeSense ts => .wire 0xFE ts
  | .reset ts => .wire 0xFF ts
  | .decByte b ts => .op 0x1 { OpPorts.zero with b := b, ts := ts }
  | .decEnd => .op 0x2 OpPorts.zero
  | .decReset => .op 0x3 OpPorts.zero
  | .encMsg m => .op 0x4 { OpPorts.zero with msg := m }
  | .mtcPush qf => .op 0x5 { OpPorts.zero with qf := qf }
  | .mtcReset => .op 0x6 OpPorts.zero
  | .sppEnc beats => .op 0x7 { OpPorts.zero with beats := beats }
  | .sppDec lsb msb => .op 0x8 { OpPorts.zero with lsb := lsb, msb := msb }
  | .rst => .op 0x9 OpPorts.zero

/-! ## The opcode table's own form -/

/-- The wire rows of spec/opcode_table.json as (mask, match), in the table's order (30_encoding.md R72). -/
def wireRows : List (Byte × Byte) :=
  [(0x80, 0x00), (0xF0, 0x80), (0xF0, 0x90), (0xF0, 0xA0), (0xF0, 0xB0), (0xF0, 0xC0), (0xF0, 0xD0), (0xF0, 0xE0)] ++
  [(0xFF, 0xF0), (0xFF, 0xF1), (0xFF, 0xF2), (0xFF, 0xF3), (0xFF, 0xF4), (0xFF, 0xF5), (0xFF, 0xF6), (0xFF, 0xF7)] ++
  [(0xFF, 0xF8), (0xFF, 0xF9), (0xFF, 0xFA), (0xFF, 0xFB), (0xFF, 0xFC), (0xFF, 0xFD), (0xFF, 0xFE), (0xFF, 0xFF)]

/-- Whether a byte lies in a row. -/
def rowMatches (row : Byte × Byte) (b : Byte) : Bool := b &&& row.1 == row.2

/-- What the table's word `w` of `nbits` bits stands for, with every operand the table gives no bits zero. The table
numbers its 8-bit wire rows and its 4-bit operation codes each from bit 0; given in whole bytes, the words 0x01 to 0x09
name both a DATA byte and an operation, and stand here for the operation. This concerns the table's numbering only: the
machine is given a `PortWord`, which says which space it is of (notes/assumptions/6.md). -/
def tableWord (nbits w : Nat) : PortWord :=
  if nbits ≤ 4 ∨ (1 ≤ w ∧ w ≤ 9) then .op (BitVec.ofNat 4 w) OpPorts.zero else .wire (BitVec.ofNat 8 w) 0

/-- The instruction the decoder reads from a word of spec/opcode_table.json. -/
def decodeTableWord (nbits w : Nat) : Option Instr :=
  match decode (tableWord nbits w) with
  | .ok i => some i
  | .error _ => none

end Sys2Proof
end

