-- ==== Sys2Proof/Machine/State.lean ====
section
/-! DEFINITION. Everything the spec gives the machine (spec/10_state.md R20), the model's own fields beside it
(INVENTORY.md, State), and the state after reset (R38). -/

namespace Sys2Proof.Machine

/-- The bytes of `sx_buf` that something has written, by address, in one canonical form (`Memory.wf`, Machine/Ops.lean).
An unlisted address has no value: the spec leaves it unspecified (10_state.md R38, notes/assumptions/8.md). -/
abbrev Memory := List Host.Cell

/-- One DEC instance (10_state.md R21 to R25). -/
structure Dec where
  /-- `sx_buf` (R21). -/
  sxBuf : Memory
  /-- `sx_len` (R22): `LENW` bits, kept as a number bounded by `SYSEX_CAP` (notes/assumptions/19.md). -/
  sxLen : Nat
  /-- `sx_open` (R23). -/
  sxOpen : Bool
  /-- `dec_fault` (R24). -/
  decFault : Bool
  /-- `pend_status` (R25). -/
  pendStatus : Byte
  /-- `pend_need` (R25). -/
  pendNeed : BitVec 2
  /-- `pend_have` (R25). -/
  pendHave : BitVec 2
  /-- `pend_d0` (R25). -/
  pendD0 : Data7
  /-- The MODEL's own: how many times a reset has drawn free values here (notes/assumptions/7.md). -/
  draws : Nat
deriving DecidableEq, Repr

/-- One MTC instance (10_state.md R28, R29). -/
structure Mtc where
  pieces : Vector Nibble 8
  count : BitVec 3
deriving DecidableEq, Repr

/-- One stream instance: a DEC and an MTC (10_state.md, head of the file). -/
structure Stream where
  dec : Dec
  mtc : Mtc
deriving DecidableEq, Repr

/-- The build's stream instances, in order; `here` is the one whose port the host is using
(60_exceptions.md R264, notes/assumptions/2.md). -/
structure Streams where
  before : List Stream
  here : Stream
  after : List Stream
deriving DecidableEq, Repr

/-- The 2-bit status every operation returns (60_exceptions.md R250). -/
inductive Status where
  | ok
  | invalidArgument
  | bufferOverflow
  | invalidMessage
deriving DecidableEq, Repr

/-- What an operation returns: the column "results out" of 30_encoding.md R87. `msg` is present exactly when
`msg_valid = 1`, `frame` exactly when `frame_valid = 1`. -/
inductive Result where
  | decByte (status : Status) (msg : Option MsgRecord)
  | decEnd (status : Status)
  | decReset (status : Status)
  | encMsg (status : Status) (bytes : List Byte)
  | mtcPush (status : Status) (frame : Option Frame)
  | mtcReset (status : Status)
  | sppEnc (status : Status) (lsb msb : Data7)
  | sppDec (status : Status) (beats : BitVec 16)
  | rst (status : Status)
deriving DecidableEq, Repr

/-- A result with the number of the stream instance that returned it; ENC and SPP belong to none. -/
structure Returned where
  stream : Option Nat
  result : Result
deriving DecidableEq, Repr

/-- The machine. -/
structure State where
  /-- The build's parameters; no operation writes them. -/
  params : Params
  /-- The stream instances. -/
  streams : Streams
  /-- The MODEL's own: the operations the host has still to issue, oldest first (notes/assumptions/4.md). -/
  input : List Command
  /-- The MODEL's own: the results returned so far, oldest first (70_reset_and_hazards.md R296, notes/assumptions/5.md). -/
  returned : List Returned
deriving DecidableEq, Repr

/-- Why the machine stops. No instruction stops on every path. -/
inductive Fault where
  /-- Raised by `step` when a command names a stream instance the build does not have (60_exceptions.md R264). Safe: the
  spec gives such a command no meaning. -/
  | noSuchStream (stream : Nat)
  /-- Raised where the SysEx terminator would copy out a byte of `sx_buf` that nothing has written. Safe, and in no state
  that a run reaches (10_state.md R21). -/
  | unwrittenSysExByte
  /-- Raised where the last data byte of a pending message comes and `pend_status` is no status that takes data bytes.
  Safe, and in no state that a run reaches (10_state.md R25, R26 (v)). -/
  | pendingStatusOutOfRange
deriving DecidableEq, Repr

/-- What the model gives no meaning. -/
inductive Refusal where
  /-- An instruction without a meaning in this model, by mnemonic; raised by no arm now. Safe. -/
  | notModelled (mnemonic : String)
  /-- Raised by `step` for operation codes 0x0 and 0xA to 0xF, which select no operation (30_encoding.md R87). Safe. -/
  | unassignedOperation (code : BitVec 4)
  /-- Raised by ENC.MSG for a SysEx record whose payload has not `length` bytes: no port presents one (30_encoding.md
  R83). Safe. -/
  | malformedRecord
deriving DecidableEq, Repr

/-- DEC after reset, for stream number `k` (10_state.md R38): lengths and flags 0; `sx_buf`, `pend_status` and `pend_d0`
unspecified (notes/assumptions/7.md, 8.md). -/
def Dec.reset (k : Nat) : Dec where
  sxBuf := []
  sxLen := 0
  sxOpen := false
  decFault := false
  pendStatus := Config.freePendStatus k 0
  pendNeed := 0
  pendHave := 0
  pendD0 := Config.freePendD0 k 0
  draws := 1

/-- MTC after reset (10_state.md R38). -/
def Mtc.reset : Mtc := ⟨Vector.replicate 8 0, 0⟩

/-- A stream when it is created (10_state.md R38). -/
def Stream.reset (k : Nat) : Stream := ⟨Dec.reset k, Mtc.reset⟩

/-- The machine after every instance's RST (10_state.md R38): nothing has been issued and nothing returned. -/
def State.reset : State where
  params := Config.params
  streams := ⟨[], Stream.reset 0, (List.range Config.nStreamsLessOne).map fun k => Stream.reset (k + 1)⟩
  input := []
  returned := []

end Sys2Proof.Machine
end

