-- ==== Sys2Proof/Machine/Operands.lean ====
section
/-! DEFINITION. How operands are assembled from wire bits, and messages from operands (spec/30_encoding.md R79 to R83,
42_mtc.md R212, 43_songpos.md R230, R231). Every operand form of the block is here. -/

namespace Sys2Proof

/-! ## Data bytes -/

/-- `ndata(s)`: how many data bytes follow a status byte (30_encoding.md R79; 0xF0 apart). -/
def ndata (s : Byte) : Nat :=
  match (highNibble s).toNat with
  | 0x8 | 0x9 | 0xA | 0xB | 0xE => 2
  | 0xC | 0xD => 1
  | 0xF =>
    match (lowNibble s).toNat with
    | 0x2 => 2
    | 0x1 | 0x3 => 1
    | _ => 0
  | _ => 0

/-! ## The 14-bit beat count -/

/-- `beats & 0x7F` (43_songpos.md R230). -/
def beatsLsb (beats : BitVec 16) : Data7 := (beats &&& 0x7F#16).setWidth 7

/-- `(beats >> 7) & 0x7F` (43_songpos.md R230). -/
def beatsMsb (beats : BitVec 16) : Data7 := ((beats >>> 7) &&& 0x7F#16).setWidth 7

/-- `lsb | (msb << 7)`, zero-extended to 16 bits (43_songpos.md R231). -/
def beatsOf (lsb msb : Data7) : BitVec 16 := lsb.setWidth 16 ||| (msb.setWidth 16 <<< 7)

/-! ## The quarter-frame byte and the frame -/

/-- `slot = qf[6:4]` (30_encoding.md R81). -/
def qfSlot (qf : Byte) : BitVec 3 := qf.extractLsb' 4 3

/-- `nibble = qf[3:0]` (30_encoding.md R81). -/
def qfNibble (qf : Byte) : Nibble := qf.extractLsb' 0 4

/-- A low nibble and a high nibble: `lo | (hi << 4)`, 8 bits (42_mtc.md R212, seconds and minutes). -/
def twoNibbles (lo hi : Nibble) : BitVec 8 := lo.setWidth 8 ||| (hi.setWidth 8 <<< 4)

/-- A low nibble and one high bit: `lo | ((hi & 1) << 4)`, 5 bits (42_mtc.md R212, frames and hours). -/
def nibbleAndBit (lo hi : Nibble) : BitVec 5 := lo.setWidth 5 ||| ((hi &&& 1#4).setWidth 5 <<< 4)

/-- `Decode(p)`: the frame of eight nibbles (42_mtc.md R212). -/
def frameOf (p : Vector Nibble 8) : Frame where
  frames := nibbleAndBit p[0] p[1]
  seconds := twoNibbles p[2] p[3]
  minutes := twoNibbles p[4] p[5]
  hours := nibbleAndBit p[6] p[7]
  rate := ((p[7] >>> 1) &&& 3#4).setWidth 2

/-- The quarter-frame byte of a slot and a nibble: `(slot << 4) | nibble` (42_mtc.md R220). -/
def quarterFrame (slot : BitVec 3) (n : Nibble) : Byte := (slot.setWidth 8 <<< 4) ||| n.setWidth 8

/-- The eight quarter-frame bytes of a timecode, slot 0 first: the inverse of `frameOf`, for hosts and statements; no
operation of the block (42_mtc.md R221). -/
def quarterFrames (f : Frame) : List Byte :=
  [quarterFrame 0 (f.frames.extractLsb' 0 4), quarterFrame 1 ((f.frames.extractLsb' 4 1).setWidth 4)] ++
  [quarterFrame 2 (f.seconds.extractLsb' 0 4), quarterFrame 3 (f.seconds.extractLsb' 4 4)] ++
  [quarterFrame 4 (f.minutes.extractLsb' 0 4), quarterFrame 5 (f.minutes.extractLsb' 4 4)] ++
  [quarterFrame 6 (f.hours.extractLsb' 0 4),
    quarterFrame 7 ((f.rate.setWidth 4 <<< 1) ||| (f.hours.extractLsb' 4 1).setWidth 4)]

/-! ## Messages -/

/-- `Build(s, d0, d1, ts)` without the timestamp: the message of a status byte that takes data bytes, and none for any
other byte (40_decoder.md R142; notes/assumptions/9.md). -/
def buildBody (s : Byte) (d0 d1 : Data7) : Option Body :=
  match (highNibble s).toNat with
  | 0x8 => some (.noteOff (lowNibble s) d0 d1)
  | 0x9 => some (.noteOn (lowNibble s) d0 d1)
  | 0xA => some (.polyPressure (lowNibble s) d0 d1)
  | 0xB => some (.controlChange (lowNibble s) d0 d1)
  | 0xC => some (.programChange (lowNibble s) d0)
  | 0xD => some (.channelPressure (lowNibble s) d0)
  | 0xE => some (.pitchBend (lowNibble s) d0 d1)
  | 0xF =>
    match (lowNibble s).toNat with
    | 0x1 => some (.mtcQuarterFrame d0)
    | 0x2 => some (.songPosition (beatsOf d0 d1))
    | 0x3 => some (.songSelect d0)
    | _ => none
  | _ => none

/-- The real-time message of a byte, none for the reserved 0xF9 and 0xFD and for bytes below 0xF8
(30_encoding.md R76, R77). -/
def realTimeBody (b : Byte) : Option Body :=
  match b.toNat with
  | 0xF8 => some .clock
  | 0xFA => some .start
  | 0xFB => some .cont
  | 0xFC => some .stop
  | 0xFE => some .activeSense
  | 0xFF => some .reset
  | _ => none

/-- The flat record of a message as DEC writes it: 0 in every field the kind does not use (30_encoding.md R83). -/
def Body.toRecord (body : Body) (ts : Stamp) : MsgRecord :=
  let none := { MsgRecord.zero with timestamp := ts }
  match body with
  | .noteOff c d0 d1 => { none with kind := 0x08, channel := c, data0 := d0, data1 := d1 }
  | .noteOn c d0 d1 => { none with kind := 0x09, channel := c, data0 := d0, data1 := d1 }
  | .polyPressure c d0 d1 => { none with kind := 0x0A, channel := c, data0 := d0, data1 := d1 }
  | .controlChange c d0 d1 => { none with kind := 0x0B, channel := c, data0 := d0, data1 := d1 }
  | .programChange c d0 => { none with kind := 0x0C, channel := c, data0 := d0 }
  | .channelPressure c d0 => { none with kind := 0x0D, channel := c, data0 := d0 }
  | .pitchBend c d0 d1 => { none with kind := 0x0E, channel := c, data0 := d0, data1 := d1 }
  | .sysEx p => { none with kind := 0xF0, length := p.length, payload := p }
  | .mtcQuarterFrame q => { none with kind := 0xF1, data0 := q }
  | .songPosition beats => { none with kind := 0xF2, beats := beats }
  | .songSelect n => { none with kind := 0xF3, data0 := n }
  | .tuneRequest => { none with kind := 0xF6 }
  | .clock => { none with kind := 0xF8 }
  | .start => { none with kind := 0xFA }
  | .cont => { none with kind := 0xFB }
  | .stop => { none with kind := 0xFC }
  | .activeSense => { none with kind := 0xFE }
  | .reset => { none with kind := 0xFF }

/-- The message at the port, as DEC emits it. -/
def Message.toRecord (m : Message) : MsgRecord := m.body.toRecord m.timestamp

/-- The message a record stands for: selected by its tag, reading only the fields that kind uses; none for a tag that is
none of the 18 (30_encoding.md R83, 41_encoder.md R170, R172, R191). -/
def MsgRecord.body (m : MsgRecord) : Option Body :=
  match m.kind.toNat with
  | 0x08 => some (.noteOff m.channel m.data0 m.data1)
  | 0x09 => some (.noteOn m.channel m.data0 m.data1)
  | 0x0A => some (.polyPressure m.channel m.data0 m.data1)
  | 0x0B => some (.controlChange m.channel m.data0 m.data1)
  | 0x0C => some (.programChange m.channel m.data0)
  | 0x0D => some (.channelPressure m.channel m.data0)
  | 0x0E => some (.pitchBend m.channel m.data0 m.data1)
  | 0xF0 => some (.sysEx m.payload)
  | 0xF1 => some (.mtcQuarterFrame m.data0)
  | 0xF2 => some (.songPosition m.beats)
  | 0xF3 => some (.songSelect m.data0)
  | 0xF6 => some .tuneRequest
  | 0xF8 => some .clock
  | 0xFA => some .start
  | 0xFB => some .cont
  | 0xFC => some .stop
  | 0xFE => some .activeSense
  | 0xFF => some .reset
  | _ => none

/-- The wire bytes of a message, first sent first (41_encoder.md R171, R173 to R190). -/
def Body.bytes : Body → List Byte
  | .noteOff c d0 d1 => [channelStatus 0x8 c, dataByte d0, dataByte d1]
  | .noteOn c d0 d1 => [channelStatus 0x9 c, dataByte d0, dataByte d1]
  | .polyPressure c d0 d1 => [channelStatus 0xA c, dataByte d0, dataByte d1]
  | .controlChange c d0 d1 => [channelStatus 0xB c, dataByte d0, dataByte d1]
  | .programChange c d0 => [channelStatus 0xC c, dataByte d0]
  | .channelPressure c d0 => [channelStatus 0xD c, dataByte d0]
  | .pitchBend c d0 d1 => [channelStatus 0xE c, dataByte d0, dataByte d1]
  | .sysEx p => 0xF0#8 :: (p ++ [0xF7#8])
  | .mtcQuarterFrame q => [0xF1, dataByte q]
  | .songPosition beats => [0xF2, dataByte (beatsLsb beats), dataByte (beatsMsb beats)]
  | .songSelect n => [0xF3, dataByte n]
  | .tuneRequest => [0xF6]
  | .clock => [0xF8]
  | .start => [0xFA]
  | .cont => [0xFB]
  | .stop => [0xFC]
  | .activeSense => [0xFE]
  | .reset => [0xFF]

end Sys2Proof
end

