-- ==== Sys2Proof/Machine/Flags.lean ====
section
/-! DEFINITION. The status codes and the flag-like state of DEC (spec/10_state.md R32, 60_exceptions.md R250), and the mode
DEC is in as a function of it (40_decoder.md R149). -/

namespace Sys2Proof.Machine

/-- The 2-bit code of a status (60_exceptions.md R250). -/
def Status.code : Status → BitVec 2
  | .ok => 0
  | .invalidArgument => 1
  | .bufferOverflow => 2
  | .invalidMessage => 3

/-- The status a result carries. -/
def Result.status : Result → Status
  | .decByte st _ => st
  | .decEnd st => st
  | .decReset st => st
  | .encMsg st _ => st
  | .mtcPush st _ => st
  | .mtcReset st => st
  | .sppEnc st _ _ => st
  | .sppDec st _ => st
  | .rst st => st

/-- DEC's modes (40_decoder.md R149). -/
inductive Mode where
  | fault
  | sysEx
  | pend
  | idle
deriving DecidableEq, Repr

/-- "DEC is in exactly one of four modes, a function of its state" (40_decoder.md R149). -/
def Dec.mode (d : Dec) : Mode :=
  if d.decFault then .fault else if d.sxOpen then .sysEx else if d.pendNeed = 0 then .idle else .pend

/-- A stream is quiescent between arrivals when nothing is pending (70_reset_and_hazards.md R296). -/
def Dec.quiescent (d : Dec) : Bool := d.pendNeed == 0

/-- `sx_len = SYSEX_CAP`: no payload byte fits any more (20_memory.md R54). A length above the capacity, which no run
reaches, counts as full (notes/assumptions/19.md). -/
def Dec.full (cap : Nat) (d : Dec) : Bool := !decide (d.sxLen < cap)

end Sys2Proof.Machine
end

