-- ==== Sys2Proof/Machine/Ops.lean ====
section
/-! DEFINITION. The shared operations: the reassembly buffer, DEC's actions, raising a condition and recovering from it,
MTC's actions, and how a unit's action becomes a step of the machine. -/

namespace Sys2Proof.Machine

/-! ## The reassembly buffer (spec/20_memory.md R50 to R52) -/

/-- One byte, if something has written it. -/
def Memory.read : Memory → Nat → Option Byte
  | [], _ => none
  | (k, v) :: rest, a => if k = a then some v else Memory.read rest a

/-- `MemWrite(a, 1, b)`, keeping the addresses strictly rising. -/
def Memory.write : Memory → Nat → Byte → Memory
  | [], a, b => [(a, b)]
  | (k, v) :: rest, a, b =>
    if a < k then (a, b) :: (k, v) :: rest
    else if a = k then (a, b) :: rest
    else (k, v) :: Memory.write rest a b

/-- `MemRead(a, n)`: the `n` bytes from address `a` up (00_scope.md R7), if something has written them all. -/
def Memory.readRun (m : Memory) (a : Nat) : Nat → Option (List Byte)
  | 0 => some []
  | n + 1 =>
    match Memory.read m a, Memory.readRun m (a + 1) n with
    | some b, some bs => some (b :: bs)
    | _, _ => none

/-- The canonical form: addresses strictly rising. An unlisted address has no value, so no entry repeats one. -/
def Memory.wf : Memory → Bool
  | [] => true
  | (_, _) :: [] => true
  | (a, _) :: (b, y) :: rest => decide (a < b) && Memory.wf ((b, y) :: rest)

/-! ## DEC's actions -/

/-- What one byte does to DEC: the state after it, the status, and at most one message (40_decoder.md R147). -/
structure DecOut where
  dec : Dec
  status : Status
  msg : Option Message
deriving DecidableEq, Repr

/-- `skip`: "the byte is consumed and nothing else happens" (00_scope.md R7). -/
def Dec.skip (d : Dec) : DecOut := ⟨d, .ok, none⟩

/-- `emit(m)` (00_scope.md R7). -/
def Dec.emit (d : Dec) (body : Body) (ts : Stamp) : DecOut := ⟨d, .ok, some ⟨body, ts⟩⟩

/-- `raise <Condition>`, the block's whole trap entry: the operation returns the condition as its status in the same
transition; nothing is saved and control goes nowhere (60_exceptions.md R254). -/
def Dec.raise (d : Dec) (condition : Status) : DecOut := ⟨d, condition, none⟩

/-- Overflow: `dec_fault <- 1; raise BufferOverflow`, and nothing else is written (40_decoder.md R124). -/
def Dec.overflow (d : Dec) : DecOut := Dec.raise { d with decFault := true } .bufferOverflow

/-- A byte given to a faulted DEC: consumed, no state written, nothing emitted (40_decoder.md R113). -/
def Dec.discard (d : Dec) : DecOut := Dec.raise d .bufferOverflow

/-- Clearing the pending message: `pend_need <- 0; pend_have <- 0` (10_state.md R25). -/
def Dec.clearPending (d : Dec) : Dec := { d with pendNeed := 0, pendHave := 0 }

/-- DEC.RESET, the recovery from an overflow (40_decoder.md R146, 60_exceptions.md R258): `sx_buf` is not cleared. -/
def Dec.recover (d : Dec) : Dec :=
  { d with sxOpen := false, sxLen := 0, decFault := false, pendNeed := 0, pendHave := 0 }

/-- A payload byte: appended where it fits, else overflow (40_decoder.md R123, R124). -/
def Dec.append (cap : Nat) (d : Dec) (b : Byte) : DecOut :=
  if Dec.full cap d then Dec.overflow d
  else Dec.skip { d with sxBuf := Memory.write d.sxBuf d.sxLen b, sxLen := d.sxLen + 1 }

/-- SysEx start (40_decoder.md R122); the pending message is cleared too. -/
def Dec.openSysEx (d : Dec) : Dec := { Dec.clearPending d with sxOpen := true, sxLen := 0 }

/-- SysEx terminator: the prefix of `sx_buf` leaves as the payload (40_decoder.md R125). -/
def Dec.terminate (d : Dec) (ts : Stamp) : Except Fault DecOut :=
  match Memory.readRun d.sxBuf 0 d.sxLen with
  | some payload => .ok (Dec.emit { d with sxOpen := false, sxLen := 0 } (.sysEx payload) ts)
  | none => .error .unwrittenSysExByte

/-- A status byte that takes `n` data bytes: `pend_status <- s; pend_need <- n; pend_have <- 0`
(40_decoder.md R129 to R131, R135 to R141). -/
def Dec.startMessage (s : Byte) (n : BitVec 2) (d : Dec) : DecOut :=
  Dec.skip { d with pendStatus := s, pendNeed := n, pendHave := 0 }

/-- A data byte of a pending message (40_decoder.md R142). -/
def Dec.takeData (d : Dec) (x : Data7) (ts : Stamp) : Except Fault DecOut :=
  let d0 := if d.pendHave = 0 then x else d.pendD0
  if d.pendNeed = 1 then
    let d1 := if d.pendHave = 1 then x else 0
    match buildBody d.pendStatus d0 d1 with
    | some body => .ok (Dec.emit (Dec.clearPending d) body ts)
    | none => .error .pendingStatusOutOfRange
  else
    .ok (Dec.skip { d with pendD0 := x, pendHave := 1, pendNeed := 1 })

/-- A byte 0xF8 to 0xFF: the message it stands for, or nothing, in every mode but FAULT; no state is written
(40_decoder.md R113 to R121). -/
def Dec.realTime (d : Dec) (body : Option Body) (ts : Stamp) : DecOut :=
  if d.decFault then Dec.discard d
  else match body with
    | some body => Dec.emit d body ts
    | none => Dec.skip d

/-- A status byte `b` from 0x80 to 0xF6: discarded in mode FAULT, payload while a SysEx is open (40_decoder.md R127);
else the pending message is dropped and `act` is the byte's own rule (R144). -/
def Dec.statusByte (cap : Nat) (d : Dec) (b : Byte) (act : Dec → DecOut) : DecOut :=
  if d.decFault then Dec.discard d
  else if d.sxOpen then Dec.append cap d b
  else act (Dec.clearPending d)

/-! ## MTC's actions -/

/-- `pieces[slot] <- nibble`. -/
def setPiece (p : Vector Nibble 8) (slot : BitVec 3) (n : Nibble) : Vector Nibble 8 :=
  p.set slot.toNat n slot.isLt

/-- All eight slots 0. -/
def emptyPieces : Vector Nibble 8 := Vector.replicate 8 0

/-- MTC.PUSH: the nibble is stored, then the eighth push decodes a frame from all eight slots (42_mtc.md R211, R219). -/
def Mtc.push (clearOnFrame : Bool) (m : Mtc) (qf : Byte) : Mtc × Option Frame :=
  let pieces := setPiece m.pieces (qfSlot qf) (qfNibble qf)
  if m.count = 7 then (⟨if clearOnFrame then emptyPieces else pieces, 0⟩, some (frameOf pieces))
  else (⟨pieces, m.count + 1⟩, none)

/-! ## Steps of the machine -/

/-- The instance whose port is used, with DEC replaced. -/
def State.setDec (s : State) (d : Dec) : State :=
  { s with streams := { s.streams with here := { s.streams.here with dec := d } } }

/-- The instance whose port is used, with MTC replaced. -/
def State.setMtc (s : State) (m : Mtc) : State :=
  { s with streams := { s.streams with here := { s.streams.here with mtc := m } } }

/-- The number of the instance whose port is used. -/
def Streams.index (z : Streams) : Nat := z.before.length

/-- An operation of the instance whose port is used returns `r`. -/
def State.ret (s : State) (r : Result) : State :=
  { s with returned := s.returned ++ [⟨some s.streams.index, r⟩] }

/-- An operation of ENC or SPP, which belong to no stream, returns `r`. -/
def State.retShared (s : State) (r : Result) : State :=
  { s with returned := s.returned ++ [⟨none, r⟩] }

/-- The step of a DEC byte whose action is `o`: DEC's new state, and the result of a DEC.BYTE (30_encoding.md R87). -/
def State.decNext (s : State) (o : DecOut) : State :=
  (s.setDec o.dec).ret (.decByte o.status (o.msg.map Message.toRecord))

/-- As `State.decNext`, where the action may fault. -/
def State.decStep (s : State) (o : Except Fault DecOut) : Host.Outcome State Fault Refusal :=
  match o with
  | .ok o => .next (s.decNext o)
  | .error f => .fault f

/-! ## Which instance an operation is issued to -/

/-- All instances, in order. -/
def Streams.all (z : Streams) : List Stream := z.before ++ z.here :: z.after

/-- The host uses the port of instance number `k`, if the build has it. -/
def Streams.focus (z : Streams) (k : Nat) : Option Streams :=
  match z.all.drop k with
  | [] => none
  | x :: rest => some ⟨z.all.take k, x, rest⟩

/-- Whether an instruction acts on a stream instance: DEC and MTC operations do, ENC and SPP are shared
(30_encoding.md R87, 60_exceptions.md R264). -/
def onStream : Instr → Bool
  | .encMsg _ => false
  | .sppEnc _ => false
  | .sppDec _ _ => false
  | _ => true

/-- The host issues `i` at the port of instance number `k`; none where the build has no such instance. -/
def State.accept (s : State) (i : Instr) (k : Nat) : Option State :=
  if onStream i then
    match s.streams.focus k with
    | some z => some { s with streams := z }
    | none => none
  else some s

/-- The refusal of a word the decoder refuses. -/
def refusalOf : DecodeError → Refusal
  | .unassignedOperation code => .unassignedOperation code

end Sys2Proof.Machine
end

