-- ==== Sys2Proof/Machine/Channel.lean ====
section
/-! DEFINITION. The channel statuses 0x80 to 0xEF (spec/40_decoder.md R135 to R141). While a SysEx is open each is a
payload byte (R127); else each drops a pending message first (R144). -/

namespace Sys2Proof.Machine

/-- NoteOff, `1000cccc` (R135). -/
def execNoteOff (c : Nibble) (_ts : Stamp) (s : State) : Host.Outcome State Fault Refusal :=
  let b := channelStatus 0x8 c
  .next (s.decNext (s.streams.here.dec.statusByte s.params.sysexCap b (Dec.startMessage b 2)))

/-- NoteOn, `1001cccc` (R136). -/
def execNoteOn (c : Nibble) (_ts : Stamp) (s : State) : Host.Outcome State Fault Refusal :=
  let b := channelStatus 0x9 c
  .next (s.decNext (s.streams.here.dec.statusByte s.params.sysexCap b (Dec.startMessage b 2)))

/-- PolyPressure, `1010cccc` (R137). -/
def execPolyPressure (c : Nibble) (_ts : Stamp) (s : State) : Host.Outcome State Fault Refusal :=
  let b := channelStatus 0xA c
  .next (s.decNext (s.streams.here.dec.statusByte s.params.sysexCap b (Dec.startMessage b 2)))

/-- ControlChange, `1011cccc` (R138). -/
def execControlChange (c : Nibble) (_ts : Stamp) (s : State) : Host.Outcome State Fault Refusal :=
  let b := channelStatus 0xB c
  .next (s.decNext (s.streams.here.dec.statusByte s.params.sysexCap b (Dec.startMessage b 2)))

/-- ProgramChange, `1100cccc` (R139). -/
def execProgramChange (c : Nibble) (_ts : Stamp) (s : State) : Host.Outcome State Fault Refusal :=
  let b := channelStatus 0xC c
  .next (s.decNext (s.streams.here.dec.statusByte s.params.sysexCap b (Dec.startMessage b 1)))

/-- ChannelPressure, `1101cccc` (R140). -/
def execChannelPressure (c : Nibble) (_ts : Stamp) (s : State) : Host.Outcome State Fault Refusal :=
  let b := channelStatus 0xD c
  .next (s.decNext (s.streams.here.dec.statusByte s.params.sysexCap b (Dec.startMessage b 1)))

/-- PitchBend, `1110cccc` (R141). -/
def execPitchBend (c : Nibble) (_ts : Stamp) (s : State) : Host.Outcome State Fault Refusal :=
  let b := channelStatus 0xE c
  .next (s.decNext (s.streams.here.dec.statusByte s.params.sysexCap b (Dec.startMessage b 2)))

end Sys2Proof.Machine
end

