-- ==== Sys2Proof/Machine/Data.lean ====
section
/-! DEFINITION. The data bytes 0x00 to 0x7F (spec/40_decoder.md R123, R142, R143). -/

namespace Sys2Proof.Machine

/-- A data byte: payload while a SysEx is open (R123, R124), an operand of the pending message (R142), else stray and
skipped, for there is no running status (R143). -/
def execData (x : Data7) (ts : Stamp) (s : State) : Host.Outcome State Fault Refusal :=
  let d := s.streams.here.dec
  s.decStep
    (if d.decFault then .ok d.discard
     else if d.sxOpen then .ok (d.append s.params.sysexCap (dataByte x))
     else if d.pendNeed = 0 then .ok d.skip
     else d.takeData x ts)

end Sys2Proof.Machine
end

