-- ==== Sys2Proof/Machine/DecOps.lean ====
section
/-! DEFINITION. The host operations of DEC: DEC.BYTE, DEC.END, DEC.RESET (spec/40_decoder.md R112, R145, R146). -/

namespace Sys2Proof.Machine

/-- The status bytes 0x80 to 0xF7 with no SysEx open, after the pending message is dropped (R112 test 7, R144). -/
def Dec.idleStatus (d : Dec) (b : Byte) (ts : Stamp) : DecOut :=
  if b < 0xF0#8 then d.startMessage b (if highNibble b = 0xC#4 ∨ highNibble b = 0xD#4 then 1 else 2)
  else if b = 0xF0#8 then d.openSysEx.skip
  else if b = 0xF1#8 ∨ b = 0xF3#8 then d.startMessage b 1
  else if b = 0xF2#8 then d.startMessage b 2
  else if b = 0xF6#8 then d.emit .tuneRequest ts
  else d.skip

/-- DEC.BYTE: the ordered tests of R112, each with its rule. -/
def Dec.byte (cap : Nat) (d : Dec) (b : Byte) (ts : Stamp) : Except Fault DecOut :=
  if d.decFault then .ok d.discard
  else if 0xF8#8 ≤ b then .ok (d.realTime (realTimeBody b) ts)
  else if d.sxOpen ∧ b = 0xF7#8 then d.terminate ts
  else if d.sxOpen then .ok (d.append cap b)
  else if b < 0x80#8 ∧ d.pendNeed ≠ 0 then d.takeData (low7 b) ts
  else if b < 0x80#8 then .ok d.skip
  else .ok (d.clearPending.idleStatus b ts)

/-- DEC.BYTE b, ts (R112). -/
def execDecByte (b : Byte) (ts : Stamp) (s : State) : Host.Outcome State Fault Refusal :=
  s.decStep (s.streams.here.dec.byte s.params.sysexCap b ts)

/-- DEC.END: the pending message is dropped, nothing else is written, and the status is OK also in mode FAULT (R145). -/
def execDecEnd (s : State) : Host.Outcome State Fault Refusal :=
  .next ((s.setDec s.streams.here.dec.clearPending).ret (.decEnd .ok))

/-- DEC.RESET (R146). -/
def execDecReset (s : State) : Host.Outcome State Fault Refusal :=
  .next ((s.setDec s.streams.here.dec.recover).ret (.decReset .ok))

end Sys2Proof.Machine
end

