-- ==== Sys2Proof/Machine/EncOps.lean ====
section
/-! DEFINITION. ENC.MSG (spec/41_encoder.md R170 to R192). -/

namespace Sys2Proof.Machine

/-- What ENC returns for a record: its wire bytes, or `InvalidMessage` and no bytes for an unknown tag (R170, R191). -/
def encResult (m : MsgRecord) : Result :=
  match m.body with
  | some body => .encMsg .ok body.bytes
  | none => .encMsg .invalidMessage []

/-- ENC.MSG m: no state is read or written (R170). A SysEx record whose payload has not `length` bytes cannot be
presented and is refused (notes/assumptions/10.md). -/
def execEncMsg (m : MsgRecord) (s : State) : Host.Outcome State Fault Refusal :=
  if m.wf then .next (s.retShared (encResult m)) else .refused .malformedRecord

end Sys2Proof.Machine
end

