-- ==== Sys2Proof/Machine/MtcOps.lean ====
section
/-! DEFINITION. MTC.PUSH and MTC.RESET (spec/42_mtc.md R211, R214). -/

namespace Sys2Proof.Machine

/-- MTC.PUSH qf: it cannot fail (R211). -/
def execMtcPush (qf : Byte) (s : State) : Host.Outcome State Fault Refusal :=
  let r := s.streams.here.mtc.push s.params.mtcClearOnFrame qf
  .next ((s.setMtc r.1).ret (.mtcPush .ok r.2))

/-- MTC.RESET: `count <- 0; pieces[i] <- 0` for all `i` (R214). -/
def execMtcReset (s : State) : Host.Outcome State Fault Refusal :=
  .next ((s.setMtc ⟨emptyPieces, 0⟩).ret (.mtcReset .ok))

end Sys2Proof.Machine
end

