-- ==== Sys2Proof/Machine/RealTime.lean ====
section
/-! DEFINITION. The bytes 0xF8 to 0xFF: real-time messages and the reserved 0xF9 and 0xFD (spec/40_decoder.md R114 to
R121). -/

namespace Sys2Proof.Machine

/-- Clock, 0xF8 (R114). -/
def execClock (ts : Stamp) (s : State) : Host.Outcome State Fault Refusal :=
  .next (s.decNext (s.streams.here.dec.realTime (some .clock) ts))

/-- Reserved 0xF9 (R120). -/
def execReservedF9 (ts : Stamp) (s : State) : Host.Outcome State Fault Refusal :=
  .next (s.decNext (s.streams.here.dec.realTime none ts))

/-- Start, 0xFA (R115). -/
def execStart (ts : Stamp) (s : State) : Host.Outcome State Fault Refusal :=
  .next (s.decNext (s.streams.here.dec.realTime (some .start) ts))

/-- Continue, 0xFB (R116). -/
def execContinue (ts : Stamp) (s : State) : Host.Outcome State Fault Refusal :=
  .next (s.decNext (s.streams.here.dec.realTime (some .cont) ts))

/-- Stop, 0xFC (R117). -/
def execStop (ts : Stamp) (s : State) : Host.Outcome State Fault Refusal :=
  .next (s.decNext (s.streams.here.dec.realTime (some .stop) ts))

/-- Reserved 0xFD (R120). -/
def execReservedFD (ts : Stamp) (s : State) : Host.Outcome State Fault Refusal :=
  .next (s.decNext (s.streams.here.dec.realTime none ts))

/-- ActiveSense, 0xFE (R118). -/
def execActiveSense (ts : Stamp) (s : State) : Host.Outcome State Fault Refusal :=
  .next (s.decNext (s.streams.here.dec.realTime (some .activeSense) ts))

/-- Reset the message, 0xFF: it resets nothing (R119). -/
def execResetMessage (ts : Stamp) (s : State) : Host.Outcome State Fault Refusal :=
  .next (s.decNext (s.streams.here.dec.realTime (some .reset) ts))

end Sys2Proof.Machine
end

