-- ==== Sys2Proof/Machine/Rst.lean ====
section
/-! DEFINITION. RST, the creation of a stream (spec/70_reset_and_hazards.md R280, 10_state.md R38). -/

namespace Sys2Proof.Machine

/-- DEC after RST on instance number `k`: `sx_buf`, `pend_status` and `pend_d0` are left unspecified, so the buffer lists
nothing and the two registers take fresh free values (notes/assumptions/7.md, 8.md). -/
def Dec.afterRst (k : Nat) (d : Dec) : Dec where
  sxBuf := []
  sxLen := 0
  sxOpen := false
  decFault := false
  pendStatus := Config.freePendStatus k d.draws
  pendNeed := 0
  pendHave := 0
  pendD0 := Config.freePendD0 k d.draws
  draws := d.draws + 1

/-- RST. -/
def execRst (s : State) : Host.Outcome State Fault Refusal :=
  .next (((s.setDec (s.streams.here.dec.afterRst s.streams.index)).setMtc ⟨emptyPieces, 0⟩).ret (.rst .ok))

end Sys2Proof.Machine
end

