-- ==== Sys2Proof/Machine/SppOps.lean ====
section
/-! DEFINITION. SPP.ENC and SPP.DEC (spec/43_songpos.md R230, R231). -/

namespace Sys2Proof.Machine

/-- SPP.ENC beats: bits 15 and 14 are dropped (R230). -/
def execSppEnc (beats : BitVec 16) (s : State) : Host.Outcome State Fault Refusal :=
  .next (s.retShared (.sppEnc .ok (beatsLsb beats) (beatsMsb beats)))

/-- SPP.DEC lsb, msb (R231). -/
def execSppDec (lsb msb : Data7) (s : State) : Host.Outcome State Fault Refusal :=
  .next (s.retShared (.sppDec .ok (beatsOf lsb msb)))

end Sys2Proof.Machine
end

