-- ==== Sys2Proof/Machine/SysEx.lean ====
section
/-! DEFINITION. The SysEx start 0xF0 and terminator 0xF7 (spec/40_decoder.md R122, R125, R134). -/

namespace Sys2Proof.Machine

/-- 0xF0: starts a SysEx (R122); payload while one is open (R127). -/
def execSysExStart (_ts : Stamp) (s : State) : Host.Outcome State Fault Refusal :=
  .next (s.decNext (s.streams.here.dec.statusByte s.params.sysexCap 0xF0#8 fun d => d.openSysEx.skip))

/-- 0xF7: ends the open SysEx (R125); skipped, with the pending message dropped, when none is open (R134). -/
def execSysExEnd (ts : Stamp) (s : State) : Host.Outcome State Fault Refusal :=
  let d := s.streams.here.dec
  s.decStep
    (if d.decFault then .ok d.discard
     else if d.sxOpen then d.terminate ts
     else .ok d.clearPending.skip)

end Sys2Proof.Machine
end

