-- ==== Sys2Proof/Machine/SystemCommon.lean ====
section
/-! DEFINITION. The system-common statuses 0xF1 to 0xF6 (spec/40_decoder.md R129 to R133). While a SysEx is open each is
a payload byte (R127); else each drops a pending message first (R144). -/

namespace Sys2Proof.Machine

/-- MTCQuarterFrame, 0xF1 (R129). -/
def execMtcQuarterFrame (_ts : Stamp) (s : State) : Host.Outcome State Fault Refusal :=
  .next (s.decNext (s.streams.here.dec.statusByte s.params.sysexCap 0xF1#8 (Dec.startMessage 0xF1#8 1)))

/-- SongPosition, 0xF2 (R130). -/
def execSongPosition (_ts : Stamp) (s : State) : Host.Outcome State Fault Refusal :=
  .next (s.decNext (s.streams.here.dec.statusByte s.params.sysexCap 0xF2#8 (Dec.startMessage 0xF2#8 2)))

/-- SongSelect, 0xF3 (R131). -/
def execSongSelect (_ts : Stamp) (s : State) : Host.Outcome State Fault Refusal :=
  .next (s.decNext (s.streams.here.dec.statusByte s.params.sysexCap 0xF3#8 (Dec.startMessage 0xF3#8 1)))

/-- Reserved 0xF4: skipped (R133). -/
def execReservedF4 (_ts : Stamp) (s : State) : Host.Outcome State Fault Refusal :=
  .next (s.decNext (s.streams.here.dec.statusByte s.params.sysexCap 0xF4#8 Dec.skip))

/-- Reserved 0xF5: skipped (R133). -/
def execReservedF5 (_ts : Stamp) (s : State) : Host.Outcome State Fault Refusal :=
  .next (s.decNext (s.streams.here.dec.statusByte s.params.sysexCap 0xF5#8 Dec.skip))

/-- TuneRequest, 0xF6 (R132). -/
def execTuneRequest (ts : Stamp) (s : State) : Host.Outcome State Fault Refusal :=
  .next (s.decNext (s.streams.here.dec.statusByte s.params.sysexCap 0xF6#8 fun d => d.emit .tuneRequest ts))

end Sys2Proof.Machine
end

