-- ==== Sys2Proof/Machine/Dispatch.lean ====
section
/-! DEFINITION. One arm per instruction. -/

namespace Sys2Proof.Machine

def exec (i : Instr) (s : State) : Host.Outcome State Fault Refusal :=
  match i with
  -- wire bytes
  | .data d ts => Sys2Proof.Machine.execData d ts s
  | .noteOff c ts => Sys2Proof.Machine.execNoteOff c ts s
  | .noteOn c ts => Sys2Proof.Machine.execNoteOn c ts s
  | .polyPressure c ts => Sys2Proof.Machine.execPolyPressure c ts s
  | .controlChange c ts => Sys2Proof.Machine.execControlChange c ts s
  | .programChange c ts => Sys2Proof.Machine.execProgramChange c ts s
  | .channelPressure c ts => Sys2Proof.Machine.execChannelPressure c ts s
  | .pitchBend c ts => Sys2Proof.Machine.execPitchBend c ts s
  | .sysExStart ts => Sys2Proof.Machine.execSysExStart ts s
  | .mtcQuarterFrame ts => Sys2Proof.Machine.execMtcQuarterFrame ts s
  | .songPosition ts => Sys2Proof.Machine.execSongPosition ts s
  | .songSelect ts => Sys2Proof.Machine.execSongSelect ts s
  | .reservedF4 ts => Sys2Proof.Machine.execReservedF4 ts s
  | .reservedF5 ts => Sys2Proof.Machine.execReservedF5 ts s
  | .tuneRequest ts => Sys2Proof.Machine.execTuneRequest ts s
  | .sysExEnd ts => Sys2Proof.Machine.execSysExEnd ts s
  | .clock ts => Sys2Proof.Machine.execClock ts s
  | .reservedF9 ts => Sys2Proof.Machine.execReservedF9 ts s
  | .start ts => Sys2Proof.Machine.execStart ts s
  | .cont ts => Sys2Proof.Machine.execContinue ts s
  | .stop ts => Sys2Proof.Machine.execStop ts s
  | .reservedFD ts => Sys2Proof.Machine.execReservedFD ts s
  | .activeSense ts => Sys2Proof.Machine.execActiveSense ts s
  | .reset ts => Sys2Proof.Machine.execResetMessage ts s
  -- host operations
  | .decByte b ts => Sys2Proof.Machine.execDecByte b ts s
  | .decEnd => Sys2Proof.Machine.execDecEnd s
  | .decReset => Sys2Proof.Machine.execDecReset s
  | .encMsg m => Sys2Proof.Machine.execEncMsg m s
  | .mtcPush qf => Sys2Proof.Machine.execMtcPush qf s
  | .mtcReset => Sys2Proof.Machine.execMtcReset s
  | .sppEnc beats => Sys2Proof.Machine.execSppEnc beats s
  | .sppDec lsb msb => Sys2Proof.Machine.execSppDec lsb msb s
  | .rst => Sys2Proof.Machine.execRst s

end Sys2Proof.Machine
end

