-- ==== Sys2Proof/Machine/Step.lean ====
section
/-! DEFINITION. One step of the machine: the oldest operation the host has still to issue. -/

namespace Sys2Proof.Machine

/-- One atomic operation (spec/00_scope.md R8). With nothing issued "the block simply holds its state"
(60_exceptions.md R265). -/
def step (s : State) : Host.Outcome State Fault Refusal :=
  match s.input with
  | [] => .next s
  | c :: rest =>
    match decode c.word with
    | .error e => .refused (refusalOf e)
    | .ok i =>
      match State.accept { s with input := rest } i c.stream with
      | none => .fault (.noSuchStream c.stream)
      | some t => exec i t

/-- The table's word as the host's next operation, at the port in use (notes/assumptions/4.md). -/
def State.withFetchWord (s : State) (nbits w : Nat) : State :=
  { s with input := ⟨s.streams.index, tableWord nbits w⟩ :: s.input }

end Sys2Proof.Machine
end

