-- ==== Sys2Proof/Machine/HostFunctions.lean ====
section
/-! DEFINITION. The host-side real-valued functions of spec/44_host_functions.md, beside the machine: outside the hardware
block (00_scope.md R4), no state and no port. Exact rationals (R244, decision D29; notes/assumptions/17.md). -/

namespace Sys2Proof.Machine

/-- The tempo estimate from the previous and the current Clock timestamp in seconds and the caller's previous estimate:
`60 / (Δt × 24)` where `Δt > 0`, else unchanged (R240, R242). -/
def tempo (bpm tPrevious tCurrent : ℚ) : ℚ :=
  if 0 < tCurrent - tPrevious then 60 / ((tCurrent - tPrevious) * 24) else bpm

/-- The frames per second of a rate code (R241, 42_mtc.md R213). -/
def fps (rate : BitVec 2) : ℚ :=
  match rate.toNat with
  | 0 => 24
  | 1 => 25
  | 2 => 2997 / 100
  | _ => 30

/-- A frame in seconds, without drop-frame correction (R241). -/
def frameSeconds (f : Frame) : ℚ :=
  (f.hours.toNat : ℚ) * 3600 + (f.minutes.toNat : ℚ) * 60 + (f.seconds.toNat : ℚ) + (f.frames.toNat : ℚ) / fps f.rate

/-- The quarter-note count of a beat count (R243). -/
def quarterNotes (beats : BitVec 16) : ℚ := (beats.toNat : ℚ) / 4

/-- The bar count in 4/4 of a beat count (R243). -/
def bars44 (beats : BitVec 16) : ℚ := (beats.toNat : ℚ) / 16

end Sys2Proof.Machine
end

