-- ==== Sys2Proof/Machine/Arrival.lean ====
section
/-! DEFINITION. The pseudo-operation DEC.ARRIVAL (spec/30_encoding.md R88, 40_decoder.md R111): no instruction of its own;
its expansion into commands, and what it does to one DEC. -/

namespace Sys2Proof.Machine

/-- What an arrival does: DEC after it, its status, and its messages in order. -/
structure ArrivalOut where
  dec : Dec
  status : Status
  msgs : List Message
deriving DecidableEq, Repr

/-- The DEC.BYTE steps of an arrival: every byte is presented, also after an overflow (R111). -/
def Dec.bytes (cap : Nat) (d : Dec) (ts : Stamp) : List Byte → Except Fault ArrivalOut
  | [] => .ok ⟨d, .ok, []⟩
  | b :: rest =>
    match d.byte cap b ts with
    | .error f => .error f
    | .ok o =>
      match Dec.bytes cap o.dec ts rest with
      | .error f => .error f
      | .ok a => .ok ⟨a.dec, if a.status = .ok then o.status else a.status, o.msg.toList ++ a.msgs⟩

/-- DEC.ARRIVAL ts, bytes: the DEC.BYTE steps, then DEC.END (R111). -/
def Dec.arrival (cap : Nat) (d : Dec) (ts : Stamp) (bytes : List Byte) : Except Fault ArrivalOut :=
  match d.bytes cap ts bytes with
  | .error f => .error f
  | .ok a => .ok { a with dec := a.dec.clearPending }

/-- The expansion of DEC.ARRIVAL into the host's commands at instance number `k` (30_encoding.md R88). -/
def arrivalCommands (k : Nat) (ts : Stamp) (bytes : List Byte) : List Command :=
  bytes.map (fun b => ⟨k, encode (.decByte b ts)⟩) ++ [⟨k, encode .decEnd⟩]

/-- Several arrivals one after the other, each with its timestamp: the messages in order, and `BufferOverflow` if any
arrival returned it. -/
def Dec.arrivals (cap : Nat) (d : Dec) : List (Stamp × List Byte) → Except Fault ArrivalOut
  | [] => .ok ⟨d, .ok, []⟩
  | (ts, bytes) :: rest =>
    match d.arrival cap ts bytes with
    | .error f => .error f
    | .ok o =>
      match Dec.arrivals cap o.dec rest with
      | .error f => .error f
      | .ok a => .ok ⟨a.dec, if a.status = .ok then o.status else a.status, o.msgs ++ a.msgs⟩

/-- `MTC.PUSH` of several bytes in order: the accumulator after them and what each returned. -/
def Mtc.pushes (clearOnFrame : Bool) (m : Mtc) : List Byte → Mtc × List (Option Frame)
  | [] => (m, [])
  | qf :: rest =>
    let r := m.push clearOnFrame qf
    let rs := Mtc.pushes clearOnFrame r.1 rest
    (rs.1, r.2 :: rs.2)

end Sys2Proof.Machine
end

