-- ==== Sys2Proof/Machine/WholeBuffer.lean ====
section
/-! DEFINITION. The source's whole-buffer decoder, as spec/40_decoder.md R150 compares it with the byte-serial one: steps
1 to 5 over an arrival's bytes, with real-time bytes taken out of a SysEx. It is no part of the machine; statements
compare the two. -/

namespace Sys2Proof.Machine

/-- A message, if there is one, before the messages of the rest of the arrival. -/
def consMessage (body : Option Body) (ts : Stamp) (r : Option (List Message × Option (List Byte))) :
    Option (List Message × Option (List Byte)) :=
  match r with
  | none => none
  | some (msgs, left) => some ((body.map fun b => ⟨b, ts⟩).toList ++ msgs, left)

/-- The scan of one arrival. `capture` is the payload of the SysEx in progress, if one is; the answer is the messages and
the SysEx in progress at the end, or none where R150's conditions fail: a message that does not lie wholly inside the
arrival, a data byte of a message that is not below 0x80, a 0xF7 outside a SysEx, a byte 0x80 to 0xF6 inside one, or
a payload above the capacity. -/
def wholeBuffer (cap : Nat) (ts : Stamp) : Option (List Byte) → List Byte → Option (List Message × Option (List Byte))
  | capture, [] => some ([], capture)
  | some p, b :: rest =>
    if 0xF8#8 ≤ b then consMessage (realTimeBody b) ts (wholeBuffer cap ts (some p) rest)
    else if b = 0xF7#8 then consMessage (some (.sysEx p)) ts (wholeBuffer cap ts none rest)
    else if b < 0x80#8 ∧ p.length < cap then wholeBuffer cap ts (some (p ++ [b])) rest
    else none
  | none, b :: rest =>
    if 0xF8#8 ≤ b then consMessage (realTimeBody b) ts (wholeBuffer cap ts none rest)
    else if b = 0xF0#8 then wholeBuffer cap ts (some []) rest
    else if b = 0xF7#8 then none
    else if b < 0x80#8 then wholeBuffer cap ts none rest
    else if ndata b = 0 then consMessage (if b = 0xF6#8 then some .tuneRequest else none) ts (wholeBuffer cap ts none rest)
    else
      match rest with
      | [] => none
      | x :: rest₁ =>
        if x < 0x80#8 then
          if ndata b = 1 then consMessage (buildBody b (low7 x) 0) ts (wholeBuffer cap ts none rest₁)
          else
            match rest₁ with
            | [] => none
            | y :: rest₂ =>
              if y < 0x80#8 then consMessage (buildBody b (low7 x) (low7 y)) ts (wholeBuffer cap ts none rest₂)
              else none
        else none

/-- DEC holds the SysEx in progress `capture`, or is idle where there is none. -/
def Dec.holds (d : Dec) (capture : Option (List Byte)) : Prop :=
  d.decFault = false ∧ d.pendNeed = 0 ∧ d.pendHave = 0 ∧
  match capture with
  | none => d.sxOpen = false
  | some p => d.sxOpen = true ∧ Memory.readRun d.sxBuf 0 d.sxLen = some p

end Sys2Proof.Machine
end

