-- ==== Sys2Proof/Safety.lean ====
section
/-! DEFINITION. What counts as a good state and a safe run, and the notions claims are stated in: the invariant of
spec/10_state.md R26, the units and what lies outside each (20_memory.md R58), representable messages (41_encoder.md
R194). -/

namespace Sys2Proof

/-! ## Kinds of message -/

/-- Whether a message is one of the six real-time kinds (30_encoding.md R76, R82). -/
def Body.isRealTime : Body → Bool
  | .clock => true
  | .start => true
  | .cont => true
  | .stop => true
  | .activeSense => true
  | .reset => true
  | _ => false

/-- The messages the round trip holds for (41_encoder.md R194): `beats ≤ 0x3FFF`; a SysEx of at most `cap` payload bytes,
all in 0x00 to 0xF6; every other message. (ProgramChange and ChannelPressure have no `data1` in `Body`.) -/
def Body.representable (cap : Nat) : Body → Prop
  | .sysEx p => p.length ≤ cap ∧ ∀ b ∈ p, b < 0xF7#8
  | .songPosition beats => beats ≤ 0x3FFF#16
  | _ => True

namespace Machine

/-! ## The invariant -/

/-- The invariant of one DEC (10_state.md R26 (i) to (vi), R21, R25, 20_memory.md R50, R51). -/
structure Dec.Inv (cap : Nat) (d : Dec) : Prop where
  /-- (i) -/
  closedEmpty : d.sxOpen = false → d.sxLen = 0
  /-- (ii) -/
  lenLeCap : d.sxLen ≤ cap
  /-- (iii) -/
  openNothingPending : d.sxOpen = true → d.pendNeed = 0
  /-- (iv) -/
  nonePendingNoneHeld : d.pendNeed = 0 → d.pendHave = 0
  /-- (v), and R25's range of `pend_status`: one or two data bytes in all, as many as the status takes. -/
  pendingCount : d.pendNeed ≠ 0 → d.pendNeed.toNat + d.pendHave.toNat = ndata d.pendStatus
  /-- (vi) -/
  faultFull : d.decFault = true → d.sxOpen = true ∧ d.sxLen = cap
  /-- The buffer is in its canonical form. -/
  bufWf : Memory.wf d.sxBuf = true
  /-- Every byte of the prefix has been written (R21, R22). -/
  bufPrefix : ∀ a, a < d.sxLen → (Memory.read d.sxBuf a).isSome = true
  /-- The buffer holds no 0xF7 and no real-time byte, at addresses 0 to `SYSEX_CAP - 1` (R21, 20_memory.md R51). -/
  bufBytes : ∀ c ∈ d.sxBuf, c.1 < cap ∧ c.2 < 0xF7#8

/-- The invariant of the machine: `SYSEX_CAP ≥ 1` (00_scope.md R5) and every instance's DEC meets `Dec.Inv`. -/
structure State.Inv (s : State) : Prop where
  capPos : 1 ≤ s.params.sysexCap
  streams : ∀ x ∈ s.streams.all, x.dec.Inv s.params.sysexCap

/-- A safe step: no fault but for a command to an instance that does not exist. -/
def State.SafeStep (s : State) : Prop :=
  ∀ f, step s = .fault f → ∃ k, f = .noSuchStream k ∧ s.streams.all.length ≤ k

/-! ## Units and frames -/

/-- The units of the block (00_scope.md R2); `RST` acts on a whole stream. -/
inductive UnitName where
  | dec
  | enc
  | mtc
  | spp
  | stream
deriving DecidableEq, Repr

/-- The unit an instruction is an operation of (30_encoding.md R87). -/
def unitOf : Instr → UnitName
  | .mtcPush _ => .mtc
  | .mtcReset => .mtc
  | .encMsg _ => .enc
  | .sppEnc _ => .spp
  | .sppDec _ _ => .spp
  | .rst => .stream
  | _ => .dec

/-- The byte an instruction gives DEC, if it gives one below 0xF7: what a SysEx in progress stores
(40_decoder.md R123, R127). -/
def payloadByte (i : Instr) : Option Byte :=
  match i, encode i with
  | .decByte b _, _ => if b < 0xF7#8 then some b else none
  | _, .wire b _ => if b < 0xF7#8 then some b else none
  | _, .op _ _ => none

/-- The address of `sx_buf` an instruction stores to: `sx_len`, for a payload byte that fits (20_memory.md R52). -/
def storeAddress (i : Instr) (s : State) : Option Nat :=
  let d := s.streams.here.dec
  if d.decFault = false ∧ d.sxOpen = true ∧ d.sxLen < s.params.sysexCap ∧ (payloadByte i).isSome then some d.sxLen
  else none

/-- `t` differs from `s` in the instance in use and in what has been returned, at most. -/
structure OnlyHere (s t : State) : Prop where
  params : t.params = s.params
  before : t.streams.before = s.streams.before
  after : t.streams.after = s.streams.after
  input : t.input = s.input

/-- Whether two DECs agree in all that any rule reads: everything but `sx_buf` at and above `sx_len`, and `pend_status`
and `pend_d0` while nothing is pending (10_state.md R21, R25, R38). -/
structure Dec.SameObservable (d e : Dec) : Prop where
  sxLen : d.sxLen = e.sxLen
  sxOpen : d.sxOpen = e.sxOpen
  decFault : d.decFault = e.decFault
  pendNeed : d.pendNeed = e.pendNeed
  pendHave : d.pendHave = e.pendHave
  pendStatus : d.pendNeed ≠ 0 → d.pendStatus = e.pendStatus
  pendD0 : d.pendHave ≠ 0 → d.pendD0 = e.pendD0
  buf : ∀ a, a < d.sxLen → Memory.read d.sxBuf a = Memory.read e.sxBuf a

/-- The messages among results, in order. -/
def messagesOf (rs : List Returned) : List MsgRecord :=
  rs.filterMap fun r => match r.result with
    | .decByte _ m => m
    | _ => none

end Machine

end Sys2Proof
end

