-- ==== Sys2Proof/Certificates/Slice0/Obligations.lean ====
section
/-! DEFINITION. The statements for the provers, from the numbered rules of spec/. `s.streams.here.dec` is the DEC of the
stream instance whose port the host is using. A conclusion `exec i s = .next t` names every change: what `t` does not
change is as in `s`. -/

open Sys2Proof Sys2Proof.Machine

/-! ## Encoding -/

/-- Decoding an encoded instruction gives it back, with every operand (30_encoding.md R72, R87). -/
def Obligations.DecodeInvertsEncode : Prop :=
  ∀ i, WellFormed i = true → decode (encode i) = .ok i

/-- Encoding a decoded wire byte gives it back: no bit of a byte is dropped (30_encoding.md R72). -/
def Obligations.EncodeInvertsWireDecode : Prop :=
  ∀ b ts, encode (decodeWire b ts) = .wire b ts

/-- Every byte lies in exactly one row of the status-byte map (30_encoding.md R72), and takes the data bytes R79 gives it.
R79 leaves 0xF0 out ("as many as come before 0xF7"): that `ndata` is 0 there is the model's own value (entry 24). -/
def Obligations.EveryByteLiesInExactlyOneRow : Prop :=
  ∀ b : Byte, (wireRows.filter (rowMatches · b)).length = 1 ∧
    (ndata b = 2 ↔ highNibble b ∈ [0x8#4, 0x9#4, 0xA#4, 0xB#4, 0xE#4] ∨ b = 0xF2#8) ∧
    (ndata b = 1 ↔ highNibble b ∈ [0xC#4, 0xD#4] ∨ b = 0xF1#8 ∨ b = 0xF3#8) ∧ ndata b ≤ 2

/-- Words written out from the tables of 30_encoding.md (R72, R87), one or more of each family. The operation codes are
the spec's own decision D7 (entry 14); that 0x8 is NoteOff and 0xC ProgramChange is its G1 (entry 12), that 0xFA is Start
its G2 (entry 13), both from general knowledge. -/
def Obligations.WordsOfTheTablesDecode : Prop :=
  ∀ ts, decodeWire 0b01111111#8 ts = .data 0x7F ts ∧ decodeWire 0b10000101#8 ts = .noteOff 5 ts ∧
    decodeWire 0b11001111#8 ts = .programChange 15 ts ∧ decodeWire 0b11110000#8 ts = .sysExStart ts ∧
    decodeWire 0b11110010#8 ts = .songPosition ts ∧ decodeWire 0b11110111#8 ts = .sysExEnd ts ∧
    decodeWire 0b11111010#8 ts = .start ts ∧ decodeWire 0b11111101#8 ts = .reservedFD ts ∧
    decode (.op 0b0101#4 { OpPorts.zero with qf := 0x76 }) = .ok (.mtcPush 0x76) ∧
    decode (.op 0b1001#4 OpPorts.zero) = .ok .rst

/-- "Codes 0x0 and 0xA to 0xF select no operation" (30_encoding.md R87), and every other code selects
one. That a model refuses them is the spec's own decision D27 (entry 11). -/
def Obligations.UnassignedCodesSelectNoOperation : Prop :=
  ∀ code p, decode (.op code p) = .error (.unassignedOperation code) ↔ code = 0x0#4 ∨ 0xA#4 ≤ code

/-! ## Steps -/

/-- A step runs the decoded instruction of the oldest command, at the instance the command names, with that command
taken from the queue; ENC and SPP operations leave the port in use as it is. -/
def Obligations.StepRunsTheDecodedInstruction : Prop :=
  ∀ s c rest i, s.input = c :: rest → decode c.word = .ok i →
    (onStream i = true → c.stream < s.streams.all.length →
      ∃ z : Streams, z.all = s.streams.all ∧ z.index = c.stream ∧
        step s = exec i { s with input := rest, streams := z }) ∧
    (onStream i = false → step s = exec i { s with input := rest })

/-- A step that carries nothing out: with nothing issued the state is held (60_exceptions.md R265); an unassigned code
is refused (30_encoding.md R87); a command to an instance the build does not have faults (model's choice, entry 2). -/
def Obligations.StepHoldsRefusesOrFaults : Prop :=
  (∀ s, s.input = [] → step s = .next s) ∧
  (∀ s c rest code, s.input = c :: rest → decode c.word = .error (.unassignedOperation code) →
    step s = .refused (.unassignedOperation code)) ∧
  (∀ s c rest i, s.input = c :: rest → decode c.word = .ok i → onStream i = true →
    s.streams.all.length ≤ c.stream → step s = .fault (.noSuchStream c.stream))

/-! ## Bytes 0xF8 to 0xFF -/

/-- Each real-time byte emits its message and writes no DEC state, in every mode but FAULT (40_decoder.md R114 to R119,
R121, R148). Which byte but 0xF8 is which kind is the spec's G2 (entry 13). -/
def Obligations.RealTimeByteEmitsItsMessage : Prop :=
  ∀ (s : State) (ts : Stamp), s.streams.here.dec.decFault = false →
    exec (.clock ts) s = .next (s.ret (.decByte .ok (some ⟨0xF8, 0, 0, 0, 0, 0, [], ts⟩))) ∧
    exec (.start ts) s = .next (s.ret (.decByte .ok (some ⟨0xFA, 0, 0, 0, 0, 0, [], ts⟩))) ∧
    exec (.cont ts) s = .next (s.ret (.decByte .ok (some ⟨0xFB, 0, 0, 0, 0, 0, [], ts⟩))) ∧
    exec (.stop ts) s = .next (s.ret (.decByte .ok (some ⟨0xFC, 0, 0, 0, 0, 0, [], ts⟩))) ∧
    exec (.activeSense ts) s = .next (s.ret (.decByte .ok (some ⟨0xFE, 0, 0, 0, 0, 0, [], ts⟩))) ∧
    exec (.reset ts) s = .next (s.ret (.decByte .ok (some ⟨0xFF, 0, 0, 0, 0, 0, [], ts⟩)))

/-- The reserved 0xF9 and 0xFD are skipped and write no state (40_decoder.md R120). -/
def Obligations.ReservedRealTimeBytesAreSkipped : Prop :=
  ∀ (s : State) (ts : Stamp), s.streams.here.dec.decFault = false →
    exec (.reservedF9 ts) s = .next (s.ret (.decByte .ok none)) ∧
    exec (.reservedFD ts) s = .next (s.ret (.decByte .ok none))

/-! ## Mode FAULT -/

/-- A faulted DEC consumes every byte, writes no state, emits nothing and returns `BufferOverflow` (40_decoder.md R113),
whichever of the two ways the byte is given to it. The spec's own decision D15 (entry 14). -/
def Obligations.FaultedDecoderDiscardsEveryByte : Prop :=
  ∀ (s : State) (b : Byte) (ts : Stamp), s.streams.here.dec.decFault = true →
    exec (decodeWire b ts) s = .next (s.ret (.decByte .bufferOverflow none)) ∧
    exec (.decByte b ts) s = .next (s.ret (.decByte .bufferOverflow none))

/-! ## SysEx -/

/-- Every byte up to 0xF6 that comes while a SysEx is open and the buffer has room is stored whole at `sx_len`, and
nothing else of the buffer changes (40_decoder.md R123). -/
def Obligations.PayloadByteIsAppended : Prop :=
  ∀ (s : State) (b : Byte) (ts : Stamp), let d := s.streams.here.dec
    d.decFault = false → d.sxOpen = true → b ≤ 0xF6#8 → d.sxLen < s.params.sysexCap →
    ∃ m : Memory, (∀ a, Memory.read m a = if a = d.sxLen then some b else Memory.read d.sxBuf a) ∧
      exec (decodeWire b ts) s =
        .next ((s.setDec { d with sxBuf := m, sxLen := d.sxLen + 1 }).ret (.decByte .ok none))

/-- A byte up to 0xF6 that comes when `sx_len = SYSEX_CAP` sets `dec_fault`, raises `BufferOverflow`, and writes nothing
else (40_decoder.md R124). -/
def Obligations.PayloadByteOverflowsAFullBuffer : Prop :=
  ∀ (s : State) (b : Byte) (ts : Stamp), let d := s.streams.here.dec
    d.decFault = false → d.sxOpen = true → b ≤ 0xF6#8 → d.sxLen = s.params.sysexCap →
    exec (decodeWire b ts) s = .next ((s.setDec { d with decFault := true }).ret (.decByte .bufferOverflow none))

/-- 0xF0 with no SysEx open starts one: nothing is emitted, the 0xF0 is not stored, a pending message is dropped
(40_decoder.md R122). -/
def Obligations.SysExStartOpensTheCapture : Prop :=
  ∀ (s : State) (ts : Stamp), let d := s.streams.here.dec
    d.decFault = false → d.sxOpen = false →
    exec (.sysExStart ts) s =
      .next ((s.setDec { d with sxOpen := true, sxLen := 0, pendNeed := 0, pendHave := 0 }).ret (.decByte .ok none))

/-- 0xF7 ends the open SysEx: its message carries the stored bytes in order, and only `sx_open` and `sx_len` are written
(40_decoder.md R125). -/
def Obligations.SysExEndEmitsThePayload : Prop :=
  ∀ (s : State) (ts : Stamp), let d := s.streams.here.dec
    d.decFault = false → d.sxOpen = true → (∀ a, a < d.sxLen → (Memory.read d.sxBuf a).isSome = true) →
    ∃ p : List Byte, p.length = d.sxLen ∧ (∀ a, a < d.sxLen → p[a]? = Memory.read d.sxBuf a) ∧
      exec (.sysExEnd ts) s =
        .next ((s.setDec { d with sxOpen := false, sxLen := 0 }).ret
          (.decByte .ok (some ⟨0xF0, 0, 0, 0, 0, d.sxLen, p, ts⟩)))

/-- 0xF7 with no SysEx open is skipped and drops a pending message (40_decoder.md R134). The spec's
own decision D11 (entry 14). -/
def Obligations.StraySysExEndIsSkipped : Prop :=
  ∀ (s : State) (ts : Stamp), let d := s.streams.here.dec
    d.decFault = false → d.sxOpen = false →
    exec (.sysExEnd ts) s = .next ((s.setDec { d with pendNeed := 0, pendHave := 0 }).ret (.decByte .ok none))

/-- A SysEx that begins in one arrival and ends in another is reassembled across any arrivals between, with the timestamp
of the arrival that ends it; real-time bytes between are not part of it (40_decoder.md R126, R127, R148). The spec's own
decisions D8, D14, D17 (entry 14). -/
def Obligations.SysExIsReassembledAcrossArrivals : Prop :=
  ∀ (cap : Nat) (d : Dec) (first last : Stamp × List Byte) (between : List (Stamp × List Byte)),
    d.decFault = false → d.sxOpen = false →
    let wire := first.2 ++ between.flatMap (·.2) ++ last.2
    0xF7#8 ∉ wire → (wire.filter (· < 0xF7#8)).length ≤ cap →
    ∃ a, d.arrivals cap ((first.1, 0xF0#8 :: first.2) :: between ++ [(last.1, last.2 ++ [0xF7#8])]) = .ok a ∧
      a.status = .ok ∧ a.dec.mode = .idle ∧
      a.msgs.filter (fun m => !m.body.isRealTime) = [⟨.sysEx (wire.filter (· < 0xF7#8)), last.1⟩]

/-- A SysEx of one byte more than the buffer holds fails with `BufferOverflow` and emits nothing, and after DEC.RESET the
stream decodes any message normally (40_decoder.md R124, R146, 60_exceptions.md R252, R258). -/
def Obligations.OverflowThenResetDecodesNormally : Prop :=
  ∀ (cap : Nat) (d : Dec) (ts ts' : Stamp) (p : List Byte) (body : Body),
    d.decFault = false → d.sxOpen = false → p.length = cap + 1 → (∀ b ∈ p, b < 0xF7#8) → body.representable cap →
    ∃ a b, d.arrival cap ts (0xF0#8 :: p) = .ok a ∧ a.status = .bufferOverflow ∧ a.msgs = [] ∧
      a.dec.decFault = true ∧ a.dec.sxOpen = true ∧ a.dec.sxLen = cap ∧
      Memory.readRun a.dec.sxBuf 0 cap = some (p.take cap) ∧
      a.dec.recover.arrival cap ts' body.bytes = .ok b ∧ b.status = .ok ∧ b.msgs = [⟨body, ts'⟩]

/-! ## Channel and system-common messages -/

/-- Each channel and system-common status that takes data bytes starts its message, whatever was pending
(40_decoder.md R129 to R131, R135 to R141, R144). That an unfinished message is dropped is the spec's own decision D12
(entry 14); which nibble is which kind is its G1 (entry 12). -/
def Obligations.StatusByteStartsItsMessage : Prop :=
  ∀ (s : State) (c : Nibble) (ts : Stamp), let d := s.streams.here.dec
    d.decFault = false → d.sxOpen = false →
    let starts := fun (b : Byte) (n : BitVec 2) =>
      (Host.Outcome.next ((s.setDec { d with pendStatus := b, pendNeed := n, pendHave := 0 }).ret (.decByte .ok none)) :
        Host.Outcome State Fault Refusal)
    exec (.noteOff c ts) s = starts (0x8#4 ++ c) 2 ∧ exec (.noteOn c ts) s = starts (0x9#4 ++ c) 2 ∧
    exec (.polyPressure c ts) s = starts (0xA#4 ++ c) 2 ∧ exec (.controlChange c ts) s = starts (0xB#4 ++ c) 2 ∧
    exec (.programChange c ts) s = starts (0xC#4 ++ c) 1 ∧ exec (.channelPressure c ts) s = starts (0xD#4 ++ c) 1 ∧
    exec (.pitchBend c ts) s = starts (0xE#4 ++ c) 2 ∧ exec (.mtcQuarterFrame ts) s = starts 0xF1#8 1 ∧
    exec (.songPosition ts) s = starts 0xF2#8 2 ∧ exec (.songSelect ts) s = starts 0xF3#8 1

/-- With no SysEx open TuneRequest is emitted at once and the reserved 0xF4 and 0xF5 are skipped; each drops a pending
message (40_decoder.md R132, R133). -/
def Obligations.TuneRequestAndReservedBytes : Prop :=
  ∀ (s : State) (ts : Stamp), let d := s.streams.here.dec
    d.decFault = false → d.sxOpen = false →
    let t := s.setDec { d with pendNeed := 0, pendHave := 0 }
    exec (.tuneRequest ts) s = .next (t.ret (.decByte .ok (some ⟨0xF6, 0, 0, 0, 0, 0, [], ts⟩))) ∧
    exec (.reservedF4 ts) s = .next (t.ret (.decByte .ok none)) ∧
    exec (.reservedF5 ts) s = .next (t.ret (.decByte .ok none))

/-- A data byte with no message pending and no SysEx open is skipped: there is no running status (40_decoder.md R143). -/
def Obligations.StrayDataByteIsSkipped : Prop :=
  ∀ (s : State) (x : Data7) (ts : Stamp), let d := s.streams.here.dec
    d.decFault = false → d.sxOpen = false → d.pendNeed = 0 →
    exec (.data x ts) s = .next (s.ret (.decByte .ok none))

/-- The first of two data bytes is held; the last completes the message its status started, whose unused fields are 0
(40_decoder.md R142, R130, R135 to R141, 30_encoding.md R83). -/
def Obligations.DataByteOfAPendingMessage : Prop :=
  ∀ (s : State) (x : Data7) (c : Nibble) (ts : Stamp), let d := s.streams.here.dec
    d.decFault = false → d.sxOpen = false →
    (d.pendNeed = 2 → exec (.data x ts) s =
      .next ((s.setDec { d with pendD0 := x, pendHave := 1, pendNeed := 1 }).ret (.decByte .ok none))) ∧
    (d.pendNeed = 1 →
      let emits := fun (m : MsgRecord) =>
        exec (.data x ts) s =
          .next ((s.setDec { d with pendNeed := 0, pendHave := 0 }).ret (.decByte .ok (some m)))
      (d.pendHave = 1 →
        (d.pendStatus = 0x8#4 ++ c → emits ⟨0x08, c, d.pendD0, x, 0, 0, [], ts⟩) ∧
        (d.pendStatus = 0x9#4 ++ c → emits ⟨0x09, c, d.pendD0, x, 0, 0, [], ts⟩) ∧
        (d.pendStatus = 0xA#4 ++ c → emits ⟨0x0A, c, d.pendD0, x, 0, 0, [], ts⟩) ∧
        (d.pendStatus = 0xB#4 ++ c → emits ⟨0x0B, c, d.pendD0, x, 0, 0, [], ts⟩) ∧
        (d.pendStatus = 0xE#4 ++ c → emits ⟨0x0E, c, d.pendD0, x, 0, 0, [], ts⟩) ∧
        (d.pendStatus = 0xF2#8 → emits ⟨0xF2, 0, 0, 0, 0b00#2 ++ x ++ d.pendD0, 0, [], ts⟩)) ∧
      (d.pendHave = 0 →
        (d.pendStatus = 0xC#4 ++ c → emits ⟨0x0C, c, x, 0, 0, 0, [], ts⟩) ∧
        (d.pendStatus = 0xD#4 ++ c → emits ⟨0x0D, c, x, 0, 0, 0, [], ts⟩) ∧
        (d.pendStatus = 0xF1#8 → emits ⟨0xF1, 0, x, 0, 0, 0, [], ts⟩) ∧
        (d.pendStatus = 0xF3#8 → emits ⟨0xF3, 0, x, 0, 0, 0, [], ts⟩)))

/-! ## DEC as a whole -/

/-- DEC.BYTE does with every byte exactly what the byte's own row does: the ordered tests of 40_decoder.md R112 and the
rules R113 to R144 are one machine. -/
def Obligations.DecByteIsTheInstructionOfItsByte : Prop :=
  ∀ (s : State) (b : Byte) (ts : Stamp), exec (.decByte b ts) s = exec (decodeWire b ts) s

/-- Under the invariant DEC.BYTE completes on every byte: DEC "never blocks and always accepts the next operation"
(40_decoder.md R110), its status is `OK`, or `BufferOverflow` with nothing emitted and `dec_fault` set. -/
def Obligations.DecByteCompletes : Prop :=
  ∀ (s : State) (b : Byte) (ts : Stamp), s.streams.here.dec.Inv s.params.sysexCap →
    ∃ o : DecOut, exec (.decByte b ts) s = .next (s.decNext o) ∧ o.dec.Inv s.params.sysexCap ∧
      (o.status = .ok ∧ o.dec.decFault = false ∨ o.status = .bufferOverflow ∧ o.msg = none ∧ o.dec.decFault = true)

/-- DEC.END drops a pending message, writes nothing else, and returns `OK` in every mode (40_decoder.md R145). The
spec's own decision D13 (entry 14). -/
def Obligations.DecEndDropsThePendingMessage : Prop :=
  ∀ s : State, exec .decEnd s =
    .next ((s.setDec { s.streams.here.dec with pendNeed := 0, pendHave := 0 }).ret (.decEnd .ok))

/-- DEC.RESET clears every register of DEC but the buffer's bytes, in every mode (40_decoder.md R146). -/
def Obligations.DecResetClearsDec : Prop :=
  ∀ s : State, exec .decReset s =
    .next ((s.setDec { s.streams.here.dec with
      sxOpen := false, sxLen := 0, decFault := false, pendNeed := 0, pendHave := 0 }).ret (.decReset .ok))

/-- DEC's modes and their transitions (40_decoder.md R149). -/
def Obligations.ModeTransitions : Prop :=
  ∀ (cap : Nat) (d : Dec) (b : Byte) (ts : Stamp) (o : DecOut), d.Inv cap → d.byte cap b ts = .ok o →
    (d.mode ≠ .fault → 0xF8#8 ≤ b → o.dec.mode = d.mode ∧ o.msg = (realTimeBody b).map (⟨·, ts⟩)) ∧
    (d.mode = .idle ∨ d.mode = .pend →
      (b = 0xF0#8 → o.dec.mode = .sysEx ∧ o.msg = none) ∧
      (0x80#8 ≤ b → 1 ≤ ndata b → o.dec.mode = .pend ∧ o.msg = none) ∧
      (b = 0xF6#8 → o.dec.mode = .idle ∧ o.msg = some ⟨.tuneRequest, ts⟩) ∧
      (b = 0xF4#8 ∨ b = 0xF5#8 ∨ b = 0xF7#8 → o.dec.mode = .idle ∧ o.msg = none)) ∧
    (d.mode = .idle → b < 0x80#8 → o.dec.mode = .idle ∧ o.msg = none) ∧
    (d.mode = .pend → b < 0x80#8 → d.pendNeed = 2 → o.dec.mode = .pend ∧ o.msg = none) ∧
    (d.mode = .pend → b < 0x80#8 → d.pendNeed = 1 → o.dec.mode = .idle ∧ o.msg.isSome = true) ∧
    (d.mode = .sysEx → b ≤ 0xF6#8 → d.sxLen < cap → o.dec.mode = .sysEx ∧ o.msg = none) ∧
    (d.mode = .sysEx → b ≤ 0xF6#8 → d.sxLen = cap → o.dec.mode = .fault ∧ o.msg = none ∧ o.status = .bufferOverflow) ∧
    (d.mode = .sysEx → b = 0xF7#8 → o.dec.mode = .idle ∧ ∃ p, o.msg = some ⟨.sysEx p, ts⟩) ∧
    (d.mode = .fault → o.dec.mode = .fault ∧ o.msg = none ∧ o.status = .bufferOverflow) ∧
    d.clearPending.mode = (if d.mode = .pend then .idle else d.mode) ∧
    d.recover.mode = .idle

/-- Bytes 0xF8 to 0xFF are transparent: without them an arrival leaves the same DEC and status and emits the same other
messages (40_decoder.md R121). For a pending message this is the spec's own decision D12 (entry 14). -/
def Obligations.RealTimeBytesAreTransparent : Prop :=
  ∀ (cap : Nat) (d : Dec) (ts : Stamp) (bytes : List Byte) (a : ArrivalOut), d.decFault = false →
    d.arrival cap ts bytes = .ok a →
    d.arrival cap ts (bytes.filter (· < 0xF8#8)) =
      .ok { a with msgs := a.msgs.filter fun m => !m.body.isRealTime }

/-- The host's commands of a DEC.ARRIVAL, run one by one, do what the pseudo-operation does: one result a command, the
arrival's messages among them in order, and only the DEC of the instance in use is changed (30_encoding.md R88,
40_decoder.md R111). -/
def Obligations.ArrivalRunsAsItsCommands : Prop :=
  ∀ (s : State) (ts : Stamp) (bytes : List Byte) (rest : List Command) (a : ArrivalOut),
    s.input = arrivalCommands s.streams.index ts bytes ++ rest →
    s.streams.here.dec.arrival s.params.sysexCap ts bytes = .ok a →
    ∃ t rs, Sys2Proof.core.run (bytes.length + 1) s = .next t ∧
      t = { s.setDec a.dec with input := rest, returned := s.returned ++ rs } ∧
      rs.length = bytes.length + 1 ∧ messagesOf rs = a.msgs.map Message.toRecord ∧
      (a.status = .ok ↔ ∀ r ∈ rs, r.result.status = .ok) ∧ (a.status = .ok ∨ a.status = .bufferOverflow)

/-- Where the source's whole-buffer algorithm gives an arrival messages (40_decoder.md R150 states when), the byte-serial
decoder gives the same messages and holds the same SysEx in progress. -/
def Obligations.AgreesWithTheWholeBufferAlgorithm : Prop :=
  ∀ (cap : Nat) (d : Dec) (ts : Stamp) (capture left : Option (List Byte)) (bytes : List Byte) (msgs : List Message),
    d.holds capture → wholeBuffer cap ts capture bytes = some (msgs, left) →
    ∃ d' : Dec, d.arrival cap ts bytes = .ok ⟨d', .ok, msgs⟩ ∧ d'.holds left

/-- What the spec leaves unspecified is unobservable: two DECs that agree in all that a rule reads return the same and
agree again after every byte (10_state.md R21, R25, R38, 93_implementation_defined.md U5). -/
def Obligations.UnspecifiedContentsAreUnobservable : Prop :=
  ∀ (cap : Nat) (d e : Dec) (b : Byte) (ts : Stamp) (o : DecOut), d.Inv cap → d.SameObservable e →
    d.byte cap b ts = .ok o →
    ∃ o' : DecOut, e.byte cap b ts = .ok o' ∧ o'.status = o.status ∧ o'.msg = o.msg ∧ o.dec.SameObservable o'.dec

/-! ## Invariants -/

/-- The invariant holds after reset (10_state.md R26, R38). -/
def Obligations.InvariantHoldsAtReset : Prop := State.reset.Inv

/-- Every step keeps the invariant, and after DEC.END nothing is pending (10_state.md R26 (i) to (vii)). -/
def Obligations.EveryStepKeepsTheInvariant : Prop :=
  (∀ s t : State, s.Inv → step s = .next t → t.Inv) ∧
  (∀ s t : State, exec .decEnd s = .next t → t.streams.here.dec.pendNeed = 0)

/-- Under the invariant no step faults, but for a command to an instance that does not exist: "no condition stops the
block" (60_exceptions.md R260). -/
def Obligations.InvariantRulesOutFaults : Prop := ∀ s : State, s.Inv → s.SafeStep

/-- `sx_len` fits `LENW` bits (00_scope.md R5, R10). -/
def Obligations.LengthFitsItsWidth : Prop :=
  ∀ (cap : Nat) (d : Dec), d.Inv cap → d.sxLen < 2 ^ Config.lenw cap ∧
    ∀ w, (∀ n, n ≤ cap → n < 2 ^ w) → Config.lenw cap ≤ w

/-- Every message DEC emits keeps the invariants of 30_encoding.md R82: at most 14 bits of beats, a SysEx payload of
`length` bytes, at most `SYSEX_CAP`, none of them 0xF7 or above. -/
def Obligations.EmittedMessagesKeepTheirInvariants : Prop :=
  ∀ (s t : State) (i : Instr) (st : Status) (m : MsgRecord), s.streams.here.dec.Inv s.params.sysexCap →
    exec i s = .next t → t.returned = s.returned ++ [⟨some s.streams.index, .decByte st (some m)⟩] →
    m.beats ≤ 0x3FFF#16 ∧ m.payload.length = m.length ∧ m.length ≤ s.params.sysexCap ∧
      (∀ b ∈ m.payload, b < 0xF7#8) ∧ ∃ body, m.body = some body ∧ m = body.toRecord m.timestamp

/-- Every instruction that completes returns exactly one result; a status other than `OK` is `BufferOverflow` from a byte
given to DEC or `InvalidMessage` from ENC.MSG, and no operation returns `InvalidArgument` (60_exceptions.md R250,
41_encoder.md R196; the spec's own decision D24, entry 20). -/
def Obligations.ConditionsComeOnlyFromTheirOperations : Prop :=
  ∀ (s t : State) (i : Instr), exec i s = .next t →
    ∃ r, t.returned = s.returned ++ [r] ∧
      (r.result.status = .ok ∨
        r.result.status = .bufferOverflow ∧ unitOf i = .dec ∧ i ≠ .decEnd ∧ i ≠ .decReset ∨
        r.result.status = .invalidMessage ∧ unitOf i = .enc)

/-! ## Units and streams -/

/-- "No state is shared": every instruction leaves the parameters, the queue and every other stream as they are; DEC
operations leave MTC, MTC operations DEC, and ENC and SPP operations every state (20_memory.md R58). -/
def Obligations.UnitsShareNoState : Prop :=
  ∀ (s t : State) (i : Instr), exec i s = .next t →
    OnlyHere s t ∧
    (unitOf i = .dec → t.streams.here.mtc = s.streams.here.mtc) ∧
    (unitOf i = .mtc → t.streams.here.dec = s.streams.here.dec) ∧
    (unitOf i = .enc ∨ unitOf i = .spp → t.streams = s.streams)

/-- The buffer's frame: but for RST, which leaves it unspecified, every instruction leaves every byte of `sx_buf` as it
is except the one it stores, at `sx_len`, and it stores there only a payload byte that fits (20_memory.md R52). -/
def Obligations.OnlyTheAppendWritesTheBuffer : Prop :=
  ∀ (s t : State) (i : Instr), i ≠ .rst → exec i s = .next t →
    (∀ a, storeAddress i s ≠ some a →
      Memory.read t.streams.here.dec.sxBuf a = Memory.read s.streams.here.dec.sxBuf a) ∧
    (∀ a, storeAddress i s = some a → Memory.read t.streams.here.dec.sxBuf a = payloadByte i)

/-- Two commands to different instances can be carried out in either order, with the same streams and the same results
(20_memory.md R59). -/
def Obligations.CommandsToDifferentStreamsCommute : Prop :=
  ∀ (s t : State) (c e : Command), c.stream ≠ e.stream →
    Sys2Proof.core.run 2 { s with input := [c, e] } = .next t →
    ∃ u r q, Sys2Proof.core.run 2 { s with input := [e, c] } = .next u ∧
      t.streams.all = u.streams.all ∧ t.params = u.params ∧
      t.returned = s.returned ++ [r, q] ∧ u.returned = s.returned ++ [q, r]

/-! ## ENC -/

/-- ENC.MSG of the channel kinds (41_encoder.md R173 to R179). -/
def Obligations.EncodesChannelMessages : Prop :=
  ∀ (s : State) (m : MsgRecord),
    let sends := fun (bytes : List Byte) => exec (.encMsg m) s = .next (s.retShared (.encMsg .ok bytes))
    (m.kind = 0x08#8 → sends [0x8#4 ++ m.channel, 0b0#1 ++ m.data0, 0b0#1 ++ m.data1]) ∧
    (m.kind = 0x09#8 → sends [0x9#4 ++ m.channel, 0b0#1 ++ m.data0, 0b0#1 ++ m.data1]) ∧
    (m.kind = 0x0A#8 → sends [0xA#4 ++ m.channel, 0b0#1 ++ m.data0, 0b0#1 ++ m.data1]) ∧
    (m.kind = 0x0B#8 → sends [0xB#4 ++ m.channel, 0b0#1 ++ m.data0, 0b0#1 ++ m.data1]) ∧
    (m.kind = 0x0C#8 → sends [0xC#4 ++ m.channel, 0b0#1 ++ m.data0]) ∧
    (m.kind = 0x0D#8 → sends [0xD#4 ++ m.channel, 0b0#1 ++ m.data0]) ∧
    (m.kind = 0x0E#8 → sends [0xE#4 ++ m.channel, 0b0#1 ++ m.data0, 0b0#1 ++ m.data1])

/-- ENC.MSG of the system-common and real-time kinds (41_encoder.md R181 to R190). -/
def Obligations.EncodesSystemMessages : Prop :=
  ∀ (s : State) (m : MsgRecord),
    let sends := fun (bytes : List Byte) => exec (.encMsg m) s = .next (s.retShared (.encMsg .ok bytes))
    (m.kind = 0xF1#8 → sends [0xF1, 0b0#1 ++ m.data0]) ∧
    (m.kind = 0xF2#8 → sends [0xF2, 0b0#1 ++ m.beats.extractLsb' 0 7, 0b0#1 ++ m.beats.extractLsb' 7 7]) ∧
    (m.kind = 0xF3#8 → sends [0xF3, 0b0#1 ++ m.data0]) ∧
    (m.kind = 0xF6#8 → sends [0xF6]) ∧ (m.kind = 0xF8#8 → sends [0xF8]) ∧ (m.kind = 0xFA#8 → sends [0xFA]) ∧
    (m.kind = 0xFB#8 → sends [0xFB]) ∧ (m.kind = 0xFC#8 → sends [0xFC]) ∧ (m.kind = 0xFE#8 → sends [0xFE]) ∧
    (m.kind = 0xFF#8 → sends [0xFF])

/-- ENC.MSG of a SysEx: 0xF0, the `length` payload bytes as they are, 0xF7; no bound and no check
(41_encoder.md R180, R192; that no bound applies is the spec's own decision D18, entry 14). -/
def Obligations.EncodesSysEx : Prop :=
  ∀ (s : State) (m : MsgRecord), m.kind = 0xF0#8 → m.payload.length = m.length →
    exec (.encMsg m) s = .next (s.retShared (.encMsg .ok ([0xF0#8] ++ m.payload ++ [0xF7#8])))

/-- ENC.MSG of a tag that is none of the 18 returns `InvalidMessage` and no bytes, and changes nothing
(41_encoder.md R191). -/
def Obligations.EncodingAnUnknownKindIsInvalid : Prop :=
  ∀ (s : State) (m : MsgRecord),
    m.kind ∉ [0x08#8, 0x09#8, 0x0A#8, 0x0B#8, 0x0C#8, 0x0D#8, 0x0E#8, 0xF0#8, 0xF1#8, 0xF2#8, 0xF3#8, 0xF6#8] ++
      [0xF8#8, 0xFA#8, 0xFB#8, 0xFC#8, 0xFE#8, 0xFF#8] →
    exec (.encMsg m) s = .next (s.retShared (.encMsg .invalidMessage []))

/-- A SysEx record whose payload has not `length` bytes, which no port can present (30_encoding.md R83), is refused: the
model's choice, entry 10. -/
def Obligations.EncodingAMalformedRecordIsRefused : Prop :=
  ∀ (s : State) (m : MsgRecord), m.kind = 0xF0#8 → m.payload.length ≠ m.length →
    exec (.encMsg m) s = .refused .malformedRecord

/-- ENC.MSG ignores the timestamp, and every field its kind does not use (41_encoder.md R172). -/
def Obligations.EncIgnoresUnusedFields : Prop :=
  ∀ (s : State) (m : MsgRecord) (ts : Stamp) (c : Nibble) (x : Data7) (w : BitVec 16) (n : Nat) (p : List Byte),
    exec (.encMsg { m with timestamp := ts }) s = exec (.encMsg m) s ∧
    (m.kind < 0x08#8 ∨ 0x0E#8 < m.kind → exec (.encMsg { m with channel := c }) s = exec (.encMsg m) s) ∧
    ((m.kind < 0x08#8 ∨ 0x0E#8 < m.kind) → m.kind ≠ 0xF1#8 → m.kind ≠ 0xF3#8 →
      exec (.encMsg { m with data0 := x }) s = exec (.encMsg m) s) ∧
    (m.kind ∉ [0x08#8, 0x09#8, 0x0A#8, 0x0B#8, 0x0E#8] →
      exec (.encMsg { m with data1 := x }) s = exec (.encMsg m) s) ∧
    (m.kind ≠ 0xF2#8 → exec (.encMsg { m with beats := w }) s = exec (.encMsg m) s) ∧
    (m.kind ≠ 0xF0#8 → exec (.encMsg { m with length := n, payload := p }) s = exec (.encMsg m) s)

/-- The first byte ENC sends is the status byte; the length is `1 + ndata`, `length + 2` for a SysEx, and nothing is sent
with `InvalidMessage` (41_encoder.md R171). -/
def Obligations.EncodedLength : Prop :=
  ∀ (s t : State) (m : MsgRecord) (st : Status) (bytes : List Byte), exec (.encMsg m) s = .next t →
    t.returned = s.returned ++ [⟨none, .encMsg st bytes⟩] →
    (st = .ok → ∃ status rest, bytes = status :: rest ∧ 0x80#8 ≤ status ∧
      (m.kind ≠ 0xF0#8 → bytes.length = 1 + ndata status ∧ ∀ b ∈ rest, b < 0x80#8) ∧
      (m.kind = 0xF0#8 → bytes.length = m.length + 2)) ∧
    (st = .invalidMessage → bytes = [])

/-- The round trip: a representable message, encoded and given as one arrival to a DEC in its reset state, yields exactly
that message (41_encoder.md R194). -/
def Obligations.RoundTrip : Prop :=
  ∀ (s : State) (cap k : Nat) (ts ts' : Stamp) (body : Body), body.representable cap →
    exec (.encMsg (body.toRecord ts)) s = .next (s.retShared (.encMsg .ok body.bytes)) ∧
    ∃ d', (Dec.reset k).arrival cap ts' body.bytes = .ok ⟨d', .ok, [⟨body, ts'⟩]⟩ ∧ d'.mode = .idle

/-- Representable messages, encoded and concatenated in one arrival, decode to exactly those messages in order
(41_encoder.md R194, R195, 20_memory.md R59). -/
def Obligations.ConcatenatedMessagesDecodeInOrder : Prop :=
  ∀ (cap : Nat) (d : Dec) (ts : Stamp) (bodies : List Body), d.decFault = false → d.sxOpen = false →
    (∀ body ∈ bodies, body.representable cap) →
    ∃ d', d.arrival cap ts (bodies.flatMap Body.bytes) = .ok ⟨d', .ok, bodies.map (⟨·, ts⟩)⟩ ∧ d'.mode = .idle

/-! ## MTC -/

/-- MTC.PUSH stores the nibble in its slot and counts; the eighth push returns the frame of the eight slots, sets the
count to 0, and clears the slots only where the build says so (42_mtc.md R211, R219). Bit 7 and the
clearing are the spec's own decisions D21 and D20 (entries 3, 14). -/
def Obligations.MtcPushStoresAndCounts : Prop :=
  ∀ (s : State) (qf : Byte), let m := s.streams.here.mtc
    ∃ p : Vector Nibble 8,
      (∀ i (h : i < 8), p[i] = if (qf.extractLsb' 4 3).toNat = i then qf.extractLsb' 0 4 else m.pieces[i]) ∧
      (m.count = 7 → exec (.mtcPush qf) s =
        .next ((s.setMtc ⟨if s.params.mtcClearOnFrame then Vector.replicate 8 0 else p, 0⟩).ret
          (.mtcPush .ok (some (frameOf p))))) ∧
      (m.count ≠ 7 → exec (.mtcPush qf) s =
        .next ((s.setMtc ⟨p, m.count + 1⟩).ret (.mtcPush .ok none)))

/-- The frame's fields, as fields of bits (42_mtc.md R212). -/
def Obligations.FrameFields : Prop :=
  ∀ p : Vector Nibble 8,
    frameOf p =
      { frames := p[1].extractLsb' 0 1 ++ p[0], seconds := p[3] ++ p[2], minutes := p[5] ++ p[4],
        hours := p[7].extractLsb' 0 1 ++ p[6], rate := p[7].extractLsb' 1 2 }

/-- MTC.RESET (42_mtc.md R214). That the slots become 0 is the spec's own decision D19 (entry 14). -/
def Obligations.MtcResetEmptiesTheAccumulator : Prop :=
  ∀ s : State, exec .mtcReset s =
    .next ((s.setMtc ⟨#v[0, 0, 0, 0, 0, 0, 0, 0], 0⟩).ret (.mtcReset .ok))

/-- The eight quarter-frame bytes of a timecode, pushed in any order after a frame or reset, return nothing seven times
and then exactly that timecode, whatever the slots held (42_mtc.md R216 (a), R221). -/
def Obligations.EightQuarterFramesInAnyOrder : Prop :=
  ∀ (clear : Bool) (m : Mtc) (f : Frame) (l : List Byte), m.count = 0 → l.Perm (quarterFrames f) →
    (m.pushes clear l).2 = List.replicate 7 none ++ [some f] ∧ (m.pushes clear l).1.count = 0

/-- Frames come at every eighth push counted from reset, whichever slots were pushed: `count` counts pushes modulo 8
(10_state.md R29, 42_mtc.md R211, R216 (c)). -/
def Obligations.FramesComeEveryEighthPush : Prop :=
  ∀ (clear : Bool) (m : Mtc) (l : List Byte),
    (m.pushes clear l).1.count.toNat = (m.count.toNat + l.length) % 8 ∧
    ((m.pushes clear l).2.filter Option.isSome).length = (m.count.toNat + l.length) / 8

/-! ## SPP -/

/-- SPP.ENC and SPP.DEC, which write no state (43_songpos.md R230, R231). -/
def Obligations.SongPositionCodec : Prop :=
  ∀ (s : State) (beats : BitVec 16) (lsb msb : Data7),
    exec (.sppEnc beats) s =
      .next (s.retShared (.sppEnc .ok (beats.extractLsb' 0 7) (beats.extractLsb' 7 7))) ∧
    exec (.sppDec lsb msb) s = .next (s.retShared (.sppDec .ok (0b00#2 ++ msb ++ lsb)))

/-- The codec is a bijection between 0..16383 and pairs of 7-bit values (43_songpos.md R232). -/
def Obligations.SongPositionCodecIsABijection : Prop :=
  (∀ beats : BitVec 16, beatsOf (beatsLsb beats) (beatsMsb beats) = beats &&& 0x3FFF#16) ∧
  (∀ beats : BitVec 16, beats ≤ 0x3FFF#16 → beatsOf (beatsLsb beats) (beatsMsb beats) = beats) ∧
  (∀ lsb msb : Data7, beatsLsb (beatsOf lsb msb) = lsb ∧ beatsMsb (beatsOf lsb msb) = msb ∧
    beatsOf lsb msb ≤ 0x3FFF#16)

/-! ## RST -/

/-- RST puts the instance in use into the state after reset; what that leaves of `sx_buf`, `pend_status` and `pend_d0` is
not said (70_reset_and_hazards.md R280, 10_state.md R38). The spec's own decisions D19, D25 (entry 14). -/
def Obligations.RstEstablishesTheResetState : Prop :=
  ∀ s : State, ∃ d' : Dec,
    exec .rst s = .next (((s.setDec d').setMtc ⟨#v[0, 0, 0, 0, 0, 0, 0, 0], 0⟩).ret (.rst .ok)) ∧
    d'.sxLen = 0 ∧ d'.sxOpen = false ∧ d'.decFault = false ∧ d'.pendNeed = 0 ∧ d'.pendHave = 0

/-- RST "equals DEC.RESET followed by MTC.RESET" (70_reset_and_hazards.md R280) in all that any rule reads. -/
def Obligations.RstIsDecResetThenMtcReset : Prop :=
  ∀ s t u v : State, exec .rst s = .next t → exec .decReset s = .next u → exec .mtcReset u = .next v →
    t.streams.here.dec.SameObservable v.streams.here.dec ∧ t.streams.here.mtc = v.streams.here.mtc ∧
    t.streams.before = v.streams.before ∧ t.streams.after = v.streams.after ∧ t.params = v.params

/-! ## Host-side functions -/

/-- The real-valued functions beside the machine (44_host_functions.md R240 to R243). That they are exact on rationals is
the spec's own decision D29 (R244, entry 17). -/
def Obligations.HostSideFunctions : Prop :=
  (∀ bpm t₀ t₁ : ℚ, t₀ < t₁ → tempo bpm t₀ t₁ * ((t₁ - t₀) * 24) = 60) ∧
  (∀ bpm t₀ t₁ : ℚ, t₁ ≤ t₀ → tempo bpm t₀ t₁ = bpm) ∧
  (∀ f : Frame, ∃ r : ℚ, (f.rate = 0 ∧ r = 24 ∨ f.rate = 1 ∧ r = 25 ∨ f.rate = 2 ∧ r = 29.97 ∨ f.rate = 3 ∧ r = 30) ∧
    frameSeconds f = f.hours.toNat * 3600 + f.minutes.toNat * 60 + f.seconds.toNat + f.frames.toNat / r) ∧
  (∀ beats : BitVec 16, quarterNotes beats * 4 = beats.toNat ∧ bars44 beats * 16 = beats.toNat)

/-! ## Wire forms -/

/-- Every message has exactly one wire form (30_encoding.md R89): an arrival of no more bytes than ENC sends for a message,
given to an idle DEC, yields exactly that message only if it is the bytes ENC sends. With `RoundTrip` this says that
those bytes are the shortest arrival that yields the message, and the only one of that length. -/
def Obligations.EachMessageHasOneWireForm : Prop :=
  ∀ (cap : Nat) (d : Dec) (ts : Stamp) (bytes : List Byte) (body : Body) (a : ArrivalOut), d.mode = .idle →
    d.arrival cap ts bytes = .ok a → a.msgs = [⟨body, ts⟩] → bytes.length ≤ body.bytes.length → bytes = body.bytes
end

