-- ==== Sys2Proof/Laws/Memory.lean ====
section
/-! SUPPORT. The laws of the reassembly buffer: read after write, a write leaves every other address alone, a write keeps
the canonical form, and what a run of reads gives. -/

namespace Sys2Proof.Machine

@[simp] theorem Memory.read_nil (a : Nat) : Memory.read [] a = none := rfl

theorem Memory.read_write_same (m : Memory) (a : Nat) (b : Byte) : Memory.read (Memory.write m a b) a = some b := by
  induction m with
  | nil => simp [Memory.write, Memory.read]
  | cons c rest ih =>
    obtain ⟨k, v⟩ := c
    simp only [Memory.write]
    split
    · simp [Memory.read]
    · split
      · simp [Memory.read]
      · rw [Memory.read, if_neg (fun h => by omega), ih]

theorem Memory.read_write_other (m : Memory) (a a' : Nat) (b : Byte) (h : a' ≠ a) :
    Memory.read (Memory.write m a b) a' = Memory.read m a' := by
  induction m with
  | nil => simp [Memory.write, Memory.read, Ne.symm h]
  | cons c rest ih =>
    obtain ⟨k, v⟩ := c
    simp only [Memory.write]
    split
    · simp [Memory.read, Ne.symm h]
    · split
      · next hk => simp [Memory.read, ← hk, Ne.symm h]
      · simp [Memory.read, ih]

theorem Memory.read_write (m : Memory) (a a' : Nat) (b : Byte) :
    Memory.read (Memory.write m a b) a' = if a' = a then some b else Memory.read m a' := by
  split
  · next h => rw [h, read_write_same]
  · next h => exact read_write_other m a a' b h

/-- The entries of a written memory are the written one and old ones. -/
theorem Memory.mem_write {m : Memory} {a : Nat} {b : Byte} {c : Host.Cell} (h : c ∈ Memory.write m a b) :
    c = (a, b) ∨ c ∈ m := by
  induction m with
  | nil => exact .inl (by simpa [Memory.write] using h)
  | cons e rest ih =>
    obtain ⟨k, v⟩ := e
    simp only [Memory.write] at h
    split at h
    · simpa using h
    · split at h
      · rcases List.mem_cons.1 h with h | h
        · exact .inl h
        · exact .inr (List.mem_cons_of_mem _ h)
      · rcases List.mem_cons.1 h with h | h
        · exact .inr (h ▸ List.mem_cons_self)
        · exact (ih h).imp id (List.mem_cons_of_mem _)

/-- The canonical form of a list with a first entry: the rest is canonical and begins above it. -/
theorem Memory.wf_cons {a : Nat} {x : Byte} {rest : Memory} :
    Memory.wf ((a, x) :: rest) = true ↔ Memory.wf rest = true ∧ ∀ c ∈ rest, a < c.1 := by
  induction rest generalizing a x with
  | nil => simp [Memory.wf]
  | cons e rest ih =>
    obtain ⟨b, y⟩ := e
    simp only [Memory.wf, Bool.and_eq_true, decide_eq_true_eq, List.forall_mem_cons, ih]
    constructor
    · rintro ⟨hab, hr, hb⟩
      exact ⟨⟨hr, hb⟩, hab, fun c hc => Nat.lt_trans hab (hb c hc)⟩
    · rintro ⟨hw, hab, -⟩
      exact ⟨hab, hw⟩

theorem Memory.write_wf {m : Memory} (a : Nat) (b : Byte) (h : Memory.wf m = true) :
    Memory.wf (Memory.write m a b) = true := by
  induction m with
  | nil => rfl
  | cons e rest ih =>
    obtain ⟨k, v⟩ := e
    obtain ⟨hr, hk⟩ := wf_cons.1 h
    simp only [Memory.write]
    split
    · next hlt =>
      exact wf_cons.2 ⟨h, List.forall_mem_cons.2 ⟨hlt, fun c hc => Nat.lt_trans hlt (hk c hc)⟩⟩
    · next hlt =>
      split
      · next heq => exact wf_cons.2 ⟨hr, heq ▸ hk⟩
      · next hne =>
        refine wf_cons.2 ⟨ih hr, fun c hc => ?_⟩
        rcases mem_write hc with rfl | hc
        · simp only; omega
        · exact hk c hc

/-- A run of reads succeeds exactly where every byte of it has been written, and gives those bytes in order. -/
theorem Memory.readRun_eq_some {m : Memory} {a n : Nat} {bs : List Byte} :
    Memory.readRun m a n = some bs ↔ bs.length = n ∧ ∀ k, k < n → Memory.read m (a + k) = bs[k]? := by
  induction n generalizing a bs with
  | zero =>
    simp only [Memory.readRun, Option.some.injEq, Nat.not_lt_zero, false_imp_iff, implies_true, and_true]
    exact ⟨fun h => by rw [← h]; rfl, fun h => (List.eq_nil_of_length_eq_zero h).symm⟩
  | succ n ih =>
    constructor
    · intro h
      simp only [Memory.readRun] at h
      split at h
      · next b bs' hb hbs =>
        obtain rfl := Option.some.inj h
        obtain ⟨hl, hr⟩ := ih.1 hbs
        refine ⟨by simp [hl], fun k hk => ?_⟩
        cases k with
        | zero => simpa using hb
        | succ k => simpa [Nat.add_assoc, Nat.add_comm 1 k] using hr k (by omega)
      · cases h
    · rintro ⟨hl, hr⟩
      obtain ⟨b, bs', rfl⟩ : ∃ b bs', bs = b :: bs' := by
        cases bs with
        | nil => simp at hl
        | cons b bs' => exact ⟨b, bs', rfl⟩
      have hb : Memory.read m a = some b := by simpa using hr 0 (by omega)
      have hbs : Memory.readRun m (a + 1) n = some bs' :=
        ih.2 ⟨by simpa using hl, fun k hk => by
          simpa [Nat.add_assoc, Nat.add_comm 1 k] using hr (k + 1) (by omega)⟩
      simp [Memory.readRun, hb, hbs]

/-- A run of reads succeeds where every byte of it has been written. -/
theorem Memory.readRun_isSome {m : Memory} {a n : Nat} (h : ∀ k, k < n → (Memory.read m (a + k)).isSome = true) :
    ∃ bs, Memory.readRun m a n = some bs := by
  induction n generalizing a with
  | zero => exact ⟨[], rfl⟩
  | succ n ih =>
    obtain ⟨b, hb⟩ := Option.isSome_iff_exists.1 (h 0 (by omega))
    obtain ⟨bs, hbs⟩ := ih (a := a + 1) (fun k hk => by
      simpa [Nat.add_assoc, Nat.add_comm 1 k] using h (k + 1) (by omega))
    exact ⟨b :: bs, by simp_all [Memory.readRun]⟩

/-- What a read finds is an entry. -/
theorem Memory.mem_of_read {m : Memory} {a : Nat} {b : Byte} (h : Memory.read m a = some b) : (a, b) ∈ m := by
  induction m with
  | nil => cases h
  | cons e rest ih =>
    obtain ⟨k, v⟩ := e
    simp only [Memory.read] at h
    split at h
    · next hk => subst hk; obtain rfl := Option.some.inj h; exact List.mem_cons_self
    · exact List.mem_cons_of_mem _ (ih h)

end Sys2Proof.Machine
end

