-- ==== Sys2Proof/Laws/State.lean ====
section
/-! SUPPORT. One lemma per field per update of State and of DEC, true by definition. -/

namespace Sys2Proof.Machine

section
variable (s : State) (d : Dec) (m : Mtc) (r : Result) (o : DecOut)

/-! ## setDec -/

@[simp] theorem setDec_params : (s.setDec d).params = s.params := rfl
@[simp] theorem setDec_input : (s.setDec d).input = s.input := rfl
@[simp] theorem setDec_returned : (s.setDec d).returned = s.returned := rfl
@[simp] theorem setDec_before : (s.setDec d).streams.before = s.streams.before := rfl
@[simp] theorem setDec_after : (s.setDec d).streams.after = s.streams.after := rfl
@[simp] theorem setDec_dec : (s.setDec d).streams.here.dec = d := rfl
@[simp] theorem setDec_mtc : (s.setDec d).streams.here.mtc = s.streams.here.mtc := rfl
@[simp] theorem setDec_index : (s.setDec d).streams.index = s.streams.index := rfl
@[simp] theorem setDec_self : s.setDec s.streams.here.dec = s := rfl

/-! ## setMtc -/

@[simp] theorem setMtc_params : (s.setMtc m).params = s.params := rfl
@[simp] theorem setMtc_input : (s.setMtc m).input = s.input := rfl
@[simp] theorem setMtc_returned : (s.setMtc m).returned = s.returned := rfl
@[simp] theorem setMtc_before : (s.setMtc m).streams.before = s.streams.before := rfl
@[simp] theorem setMtc_after : (s.setMtc m).streams.after = s.streams.after := rfl
@[simp] theorem setMtc_dec : (s.setMtc m).streams.here.dec = s.streams.here.dec := rfl
@[simp] theorem setMtc_mtc : (s.setMtc m).streams.here.mtc = m := rfl
@[simp] theorem setMtc_index : (s.setMtc m).streams.index = s.streams.index := rfl
@[simp] theorem setMtc_self : s.setMtc s.streams.here.mtc = s := rfl

/-! ## ret, retShared -/

@[simp] theorem ret_params : (s.ret r).params = s.params := rfl
@[simp] theorem ret_input : (s.ret r).input = s.input := rfl
@[simp] theorem ret_streams : (s.ret r).streams = s.streams := rfl
@[simp] theorem ret_returned : (s.ret r).returned = s.returned ++ [⟨some s.streams.index, r⟩] := rfl
@[simp] theorem retShared_params : (s.retShared r).params = s.params := rfl
@[simp] theorem retShared_input : (s.retShared r).input = s.input := rfl
@[simp] theorem retShared_streams : (s.retShared r).streams = s.streams := rfl
@[simp] theorem retShared_returned : (s.retShared r).returned = s.returned ++ [⟨none, r⟩] := rfl

/-! ## decNext -/

@[simp] theorem decNext_params : (s.decNext o).params = s.params := rfl
@[simp] theorem decNext_input : (s.decNext o).input = s.input := rfl
@[simp] theorem decNext_before : (s.decNext o).streams.before = s.streams.before := rfl
@[simp] theorem decNext_after : (s.decNext o).streams.after = s.streams.after := rfl
@[simp] theorem decNext_dec : (s.decNext o).streams.here.dec = o.dec := rfl
@[simp] theorem decNext_mtc : (s.decNext o).streams.here.mtc = s.streams.here.mtc := rfl
@[simp] theorem decNext_returned :
    (s.decNext o).returned =
      s.returned ++ [⟨some s.streams.index, .decByte o.status (o.msg.map Message.toRecord)⟩] := rfl

@[simp] theorem decStep_ok : s.decStep (.ok o) = .next (s.decNext o) := rfl
@[simp] theorem decStep_error (f : Fault) : s.decStep (.error f) = .fault f := rfl

/-! ## clearPending, recover -/

@[simp] theorem clearPending_sxBuf : d.clearPending.sxBuf = d.sxBuf := rfl
@[simp] theorem clearPending_sxLen : d.clearPending.sxLen = d.sxLen := rfl
@[simp] theorem clearPending_sxOpen : d.clearPending.sxOpen = d.sxOpen := rfl
@[simp] theorem clearPending_decFault : d.clearPending.decFault = d.decFault := rfl
@[simp] theorem clearPending_pendStatus : d.clearPending.pendStatus = d.pendStatus := rfl
@[simp] theorem clearPending_pendNeed : d.clearPending.pendNeed = 0 := rfl
@[simp] theorem clearPending_pendHave : d.clearPending.pendHave = 0 := rfl
@[simp] theorem clearPending_pendD0 : d.clearPending.pendD0 = d.pendD0 := rfl
@[simp] theorem clearPending_draws : d.clearPending.draws = d.draws := rfl

@[simp] theorem recover_sxBuf : d.recover.sxBuf = d.sxBuf := rfl
@[simp] theorem recover_sxLen : d.recover.sxLen = 0 := rfl
@[simp] theorem recover_sxOpen : d.recover.sxOpen = false := rfl
@[simp] theorem recover_decFault : d.recover.decFault = false := rfl
@[simp] theorem recover_pendStatus : d.recover.pendStatus = d.pendStatus := rfl
@[simp] theorem recover_pendNeed : d.recover.pendNeed = 0 := rfl
@[simp] theorem recover_pendHave : d.recover.pendHave = 0 := rfl
@[simp] theorem recover_pendD0 : d.recover.pendD0 = d.pendD0 := rfl
@[simp] theorem recover_draws : d.recover.draws = d.draws := rfl

/-! ## emit, skip, raise -/

@[simp] theorem skip_dec : d.skip.dec = d := rfl
@[simp] theorem skip_status : d.skip.status = .ok := rfl
@[simp] theorem skip_msg : d.skip.msg = none := rfl
@[simp] theorem raise_dec (c : Status) : (d.raise c).dec = d := rfl
@[simp] theorem raise_status (c : Status) : (d.raise c).status = c := rfl
@[simp] theorem raise_msg (c : Status) : (d.raise c).msg = none := rfl
@[simp] theorem emit_dec (b : Body) (ts : Stamp) : (d.emit b ts).dec = d := rfl
@[simp] theorem emit_status (b : Body) (ts : Stamp) : (d.emit b ts).status = .ok := rfl
@[simp] theorem emit_msg (b : Body) (ts : Stamp) : (d.emit b ts).msg = some ⟨b, ts⟩ := rfl

end

end Sys2Proof.Machine
end

