-- ==== Sys2Proof/Laws/Ops.lean ====
section
/-! SUPPORT. For each shared operation, one lemma that says everything it can do; later proofs cite it instead of
unfolding the operation. -/

namespace Sys2Proof.Machine

/-! ## DEC's actions -/

theorem full_iff (cap : Nat) (d : Dec) : d.full cap = true ↔ cap ≤ d.sxLen := by
  simp [Dec.full]

/-- A payload byte is appended, or overflows (40_decoder.md R123, R124). -/
theorem append_cases (cap : Nat) (d : Dec) (b : Byte) :
    (d.sxLen < cap ∧
      d.append cap b = ⟨{ d with sxBuf := Memory.write d.sxBuf d.sxLen b, sxLen := d.sxLen + 1 }, .ok, none⟩) ∨
    (cap ≤ d.sxLen ∧ d.append cap b = ⟨{ d with decFault := true }, .bufferOverflow, none⟩) := by
  rcases Nat.lt_or_ge d.sxLen cap with h | h
  · exact .inl ⟨h, by simp [Dec.append, Dec.full, h, Dec.skip]⟩
  · exact .inr ⟨h, by rw [Dec.append, if_pos ((full_iff cap d).2 h)]; rfl⟩

/-- A byte from 0xF8 up is discarded in mode FAULT; else DEC is as before, and its message, if any, is emitted. -/
theorem realTime_cases (d : Dec) (body : Option Body) (ts : Stamp) :
    (d.decFault = true ∧ d.realTime body ts = ⟨d, .bufferOverflow, none⟩) ∨
    (d.decFault = false ∧ d.realTime body ts = ⟨d, .ok, body.map fun x => ⟨x, ts⟩⟩) := by
  cases h : d.decFault
  · exact .inr ⟨rfl, by cases body <;> simp [Dec.realTime, h, Dec.emit, Dec.skip]⟩
  · exact .inl ⟨rfl, by simp [Dec.realTime, h, Dec.discard, Dec.raise]⟩

/-- A status byte below 0xF7 is discarded in mode FAULT, payload in mode SYSEX, and acts by its own rule on a DEC with
nothing pending otherwise. -/
theorem statusByte_cases (cap : Nat) (d : Dec) (b : Byte) (act : Dec → DecOut) :
    (d.decFault = true ∧ d.statusByte cap b act = ⟨d, .bufferOverflow, none⟩) ∨
    (d.decFault = false ∧ d.sxOpen = true ∧ d.statusByte cap b act = d.append cap b) ∨
    (d.decFault = false ∧ d.sxOpen = false ∧ d.statusByte cap b act = act d.clearPending) := by
  cases h : d.decFault <;> cases h' : d.sxOpen <;> simp [Dec.statusByte, h, h', Dec.discard, Dec.raise]

/-- The terminator emits the prefix of the buffer, or faults where that prefix was not written. -/
theorem terminate_cases (d : Dec) (ts : Stamp) :
    (∃ p, Memory.readRun d.sxBuf 0 d.sxLen = some p ∧
      d.terminate ts = .ok ⟨{ d with sxOpen := false, sxLen := 0 }, .ok, some ⟨.sysEx p, ts⟩⟩) ∨
    (Memory.readRun d.sxBuf 0 d.sxLen = none ∧ d.terminate ts = .error .unwrittenSysExByte) := by
  cases h : Memory.readRun d.sxBuf 0 d.sxLen with
  | none => exact .inr ⟨rfl, by rw [Dec.terminate, h]⟩
  | some p => exact .inl ⟨p, rfl, by rw [Dec.terminate, h]; rfl⟩

/-- A data byte of a pending message completes it, or faults where the status starts no message, or is held as the first
of two (40_decoder.md R142). -/
theorem takeData_cases (d : Dec) (x : Data7) (ts : Stamp) :
    (d.pendNeed = 1 ∧ ∃ body,
      buildBody d.pendStatus (if d.pendHave = 0 then x else d.pendD0) (if d.pendHave = 1 then x else 0) = some body ∧
      d.takeData x ts = .ok ⟨d.clearPending, .ok, some ⟨body, ts⟩⟩) ∨
    (d.pendNeed = 1 ∧
      buildBody d.pendStatus (if d.pendHave = 0 then x else d.pendD0) (if d.pendHave = 1 then x else 0) = none ∧
      d.takeData x ts = .error .pendingStatusOutOfRange) ∨
    (d.pendNeed ≠ 1 ∧ d.takeData x ts = .ok ⟨{ d with pendD0 := x, pendHave := 1, pendNeed := 1 }, .ok, none⟩) := by
  by_cases h : d.pendNeed = 1
  · cases hb : buildBody d.pendStatus (if d.pendHave = 0 then x else d.pendD0) (if d.pendHave = 1 then x else 0) with
    | none => exact .inr (.inl ⟨h, rfl, by simp only [Dec.takeData, h, if_true, hb]⟩)
    | some body => exact .inl ⟨h, body, rfl, by simp only [Dec.takeData, h, if_true, hb]; rfl⟩
  · exact .inr (.inr ⟨h, by simp only [Dec.takeData, if_neg h]; rfl⟩)

/-! ## MTC's actions -/

theorem setPiece_get (p : Vector Nibble 8) (slot : BitVec 3) (n : Nibble) (i : Nat) (h : i < 8) :
    (setPiece p slot n)[i] = if slot.toNat = i then n else p[i] := by
  simp [setPiece, Vector.getElem_set]

/-- A push stores its nibble; the eighth also gives the frame and starts the count again (42_mtc.md R211, R219). -/
theorem push_cases (clear : Bool) (m : Mtc) (qf : Byte) :
    (m.count = 7 ∧ m.push clear qf =
      (⟨if clear then emptyPieces else setPiece m.pieces (qfSlot qf) (qfNibble qf), 0⟩,
        some (frameOf (setPiece m.pieces (qfSlot qf) (qfNibble qf))))) ∨
    (m.count ≠ 7 ∧ m.push clear qf = (⟨setPiece m.pieces (qfSlot qf) (qfNibble qf), m.count + 1⟩, none)) := by
  by_cases h : m.count = 7
  · exact .inl ⟨h, by simp [Mtc.push, h]⟩
  · exact .inr ⟨h, if_neg h⟩

/-! ## Steps -/

/-- A DEC byte gives a next state exactly where its action does not fault. -/
theorem decStep_eq_next {s t : State} {o : Except Fault DecOut} :
    s.decStep o = .next t ↔ ∃ d, o = .ok d ∧ t = s.decNext d := by
  cases o with
  | error f => simp [State.decStep]
  | ok d => simp [State.decStep, eq_comm]

/-- Using another port leaves every instance as it is, and takes the one with that number. -/
theorem focus_eq_some {z y : Streams} {k : Nat} :
    z.focus k = some y ↔ y.all = z.all ∧ y.index = k := by
  unfold Streams.focus
  constructor
  · intro h
    split at h
    · cases h
    · next x rest hd =>
      obtain rfl := Option.some.inj h
      have hk : k < z.all.length := by
        rcases Nat.lt_or_ge k z.all.length with h | h
        · exact h
        · rw [List.drop_of_length_le h] at hd; cases hd
      refine ⟨?_, by simp [Streams.index, Nat.min_eq_left (Nat.le_of_lt hk)]⟩
      show z.all.take k ++ x :: rest = z.all
      rw [← hd, List.take_append_drop]
  · rintro ⟨ha, rfl⟩
    have hd : z.all.drop y.index = y.here :: y.after := by
      rw [← ha, Streams.all, Streams.index, List.drop_left]
    have ht : z.all.take y.index = y.before := by
      rw [← ha, Streams.all, Streams.index, List.take_left]
    rw [hd]; simp [ht]

/-- The build has no instance of that number exactly where using its port fails. -/
theorem focus_eq_none {z : Streams} {k : Nat} : z.focus k = none ↔ z.all.length ≤ k := by
  unfold Streams.focus
  split
  · next h => simp only [true_iff]; exact List.drop_eq_nil_iff.1 h
  · next x rest h =>
    simp only [reduceCtorEq, false_iff]
    intro hk; rw [List.drop_of_length_le hk] at h; cases h

/-- What a step can do: hold its state, refuse the code, find no such instance, or carry out the decoded instruction. -/
theorem step_cases (s : State) :
    (s.input = [] ∧ step s = .next s) ∨
    (∃ c rest e, s.input = c :: rest ∧ decode c.word = .error e ∧ step s = .refused (refusalOf e)) ∨
    (∃ c rest i, s.input = c :: rest ∧ decode c.word = .ok i ∧
      ((State.accept { s with input := rest } i c.stream = none ∧ step s = .fault (.noSuchStream c.stream)) ∨
       ∃ t, State.accept { s with input := rest } i c.stream = some t ∧ step s = exec i t)) := by
  cases hi : s.input with
  | nil => exact .inl ⟨rfl, by rw [step, hi]⟩
  | cons c rest =>
    cases hd : decode c.word with
    | error e => exact .inr (.inl ⟨c, rest, e, rfl, hd, by simp only [step, hi, hd]⟩)
    | ok i =>
      refine .inr (.inr ⟨c, rest, i, rfl, hd, ?_⟩)
      cases ha : State.accept { s with input := rest } i c.stream with
      | none => exact .inl ⟨rfl, by simp only [step, hi, hd, ha]⟩
      | some t => exact .inr ⟨t, rfl, by simp only [step, hi, hd, ha]⟩

end Sys2Proof.Machine
end

