-- ==== Sys2Proof/Laws/PerInstr.lean ====
section
/-! SUPPORT. A law of every instruction as syntax: the word the encoder writes lies in the instruction's own row of
spec/opcode_table.json (mask and match of a wire row, code of an operation). -/

namespace Sys2Proof.Laws.InOwnRow

/-- A wire row, by mask and match. -/
def wireRow (mask pattern : Byte) (i : Instr) : Prop :=
  ∃ b ts, encode i = .wire b ts ∧ rowMatches (mask, pattern) b = true

/-- An operation row, by code. -/
def opRow (code : BitVec 4) (i : Instr) : Prop := ∃ p, encode i = .op code p

/-- The row of each instruction as the opcode table gives it. -/
def Statement (i : Instr) : Prop :=
  match i with
  | .data _ _ => wireRow 0x80 0x00 i
  | .noteOff _ _ => wireRow 0xF0 0x80 i
  | .noteOn _ _ => wireRow 0xF0 0x90 i
  | .polyPressure _ _ => wireRow 0xF0 0xA0 i
  | .controlChange _ _ => wireRow 0xF0 0xB0 i
  | .programChange _ _ => wireRow 0xF0 0xC0 i
  | .channelPressure _ _ => wireRow 0xF0 0xD0 i
  | .pitchBend _ _ => wireRow 0xF0 0xE0 i
  | .sysExStart _ => wireRow 0xFF 0xF0 i
  | .mtcQuarterFrame _ => wireRow 0xFF 0xF1 i
  | .songPosition _ => wireRow 0xFF 0xF2 i
  | .songSelect _ => wireRow 0xFF 0xF3 i
  | .reservedF4 _ => wireRow 0xFF 0xF4 i
  | .reservedF5 _ => wireRow 0xFF 0xF5 i
  | .tuneRequest _ => wireRow 0xFF 0xF6 i
  | .sysExEnd _ => wireRow 0xFF 0xF7 i
  | .clock _ => wireRow 0xFF 0xF8 i
  | .reservedF9 _ => wireRow 0xFF 0xF9 i
  | .start _ => wireRow 0xFF 0xFA i
  | .cont _ => wireRow 0xFF 0xFB i
  | .stop _ => wireRow 0xFF 0xFC i
  | .reservedFD _ => wireRow 0xFF 0xFD i
  | .activeSense _ => wireRow 0xFF 0xFE i
  | .reset _ => wireRow 0xFF 0xFF i
  | .decByte _ _ => opRow 0x1 i
  | .decEnd => opRow 0x2 i
  | .decReset => opRow 0x3 i
  | .encMsg _ => opRow 0x4 i
  | .mtcPush _ => opRow 0x5 i
  | .mtcReset => opRow 0x6 i
  | .sppEnc _ => opRow 0x7 i
  | .sppDec _ _ => opRow 0x8 i
  | .rst => opRow 0x9 i

theorem channel_in_row (k c : Nibble) : rowMatches (0xF0, k.setWidth 8 <<< 4) (channelStatus k c) = true := by
  revert k c; decide

theorem data (d : Data7) (ts : Stamp) : Statement (.data d ts) := ⟨_, _, rfl, by revert d; decide⟩
theorem noteOff (c : Nibble) (ts : Stamp) : Statement (.noteOff c ts) := ⟨_, _, rfl, channel_in_row 0x8 c⟩
theorem noteOn (c : Nibble) (ts : Stamp) : Statement (.noteOn c ts) := ⟨_, _, rfl, channel_in_row 0x9 c⟩
theorem polyPressure (c : Nibble) (ts : Stamp) : Statement (.polyPressure c ts) := ⟨_, _, rfl, channel_in_row 0xA c⟩
theorem controlChange (c : Nibble) (ts : Stamp) : Statement (.controlChange c ts) := ⟨_, _, rfl, channel_in_row 0xB c⟩
theorem programChange (c : Nibble) (ts : Stamp) : Statement (.programChange c ts) := ⟨_, _, rfl, channel_in_row 0xC c⟩
theorem channelPressure (c : Nibble) (ts : Stamp) : Statement (.channelPressure c ts) := ⟨_, _, rfl, channel_in_row 0xD c⟩
theorem pitchBend (c : Nibble) (ts : Stamp) : Statement (.pitchBend c ts) := ⟨_, _, rfl, channel_in_row 0xE c⟩
theorem sysExStart (ts : Stamp) : Statement (.sysExStart ts) := ⟨_, _, rfl, by decide⟩
theorem mtcQuarterFrame (ts : Stamp) : Statement (.mtcQuarterFrame ts) := ⟨_, _, rfl, by decide⟩
theorem songPosition (ts : Stamp) : Statement (.songPosition ts) := ⟨_, _, rfl, by decide⟩
theorem songSelect (ts : Stamp) : Statement (.songSelect ts) := ⟨_, _, rfl, by decide⟩
theorem reservedF4 (ts : Stamp) : Statement (.reservedF4 ts) := ⟨_, _, rfl, by decide⟩
theorem reservedF5 (ts : Stamp) : Statement (.reservedF5 ts) := ⟨_, _, rfl, by decide⟩
theorem tuneRequest (ts : Stamp) : Statement (.tuneRequest ts) := ⟨_, _, rfl, by decide⟩
theorem sysExEnd (ts : Stamp) : Statement (.sysExEnd ts) := ⟨_, _, rfl, by decide⟩
theorem clock (ts : Stamp) : Statement (.clock ts) := ⟨_, _, rfl, by decide⟩
theorem reservedF9 (ts : Stamp) : Statement (.reservedF9 ts) := ⟨_, _, rfl, by decide⟩
theorem start (ts : Stamp) : Statement (.start ts) := ⟨_, _, rfl, by decide⟩
theorem cont (ts : Stamp) : Statement (.cont ts) := ⟨_, _, rfl, by decide⟩
theorem stop (ts : Stamp) : Statement (.stop ts) := ⟨_, _, rfl, by decide⟩
theorem reservedFD (ts : Stamp) : Statement (.reservedFD ts) := ⟨_, _, rfl, by decide⟩
theorem activeSense (ts : Stamp) : Statement (.activeSense ts) := ⟨_, _, rfl, by decide⟩
theorem reset (ts : Stamp) : Statement (.reset ts) := ⟨_, _, rfl, by decide⟩
theorem decByte (b : Byte) (ts : Stamp) : Statement (.decByte b ts) := ⟨_, rfl⟩
theorem decEnd : Statement .decEnd := ⟨_, rfl⟩
theorem decReset : Statement .decReset := ⟨_, rfl⟩
theorem encMsg (m : MsgRecord) : Statement (.encMsg m) := ⟨_, rfl⟩
theorem mtcPush (qf : Byte) : Statement (.mtcPush qf) := ⟨_, rfl⟩
theorem mtcReset : Statement .mtcReset := ⟨_, rfl⟩
theorem sppEnc (beats : BitVec 16) : Statement (.sppEnc beats) := ⟨_, rfl⟩
theorem sppDec (lsb msb : Data7) : Statement (.sppDec lsb msb) := ⟨_, rfl⟩
theorem rst : Statement .rst := ⟨_, rfl⟩

end Sys2Proof.Laws.InOwnRow
end

