-- ==== Sys2Proof/Machine/Notation.lean ====
section
/-! DEFINITION. The spec's notation for messages and operations (spec/30_encoding.md R89), as a printer, and what can be
written in it: the operations, and the one pseudo-operation, which expands. No instruction uses the text. -/

namespace Sys2Proof.Machine

/-! ## Numbers and byte strings -/

/-- One hexadecimal digit. -/
def hexDigit (n : Nibble) : Char :=
  if n.toNat < 10 then Char.ofNat (48 + n.toNat) else Char.ofNat (55 + n.toNat)

/-- A byte as a hexadecimal pair: `F0`. -/
def hexPair (b : Byte) : String := String.ofList [hexDigit (highNibble b), hexDigit (lowNibble b)]

/-- A byte as a number: `0xF0`. -/
def hexByte (b : Byte) : String := "0x" ++ hexPair b

/-- A wire byte string, hexadecimal pairs in brackets: `[F0 01 02]`. -/
def bytesText (bytes : List Byte) : String := "[" ++ String.intercalate " " (bytes.map hexPair) ++ "]"

/-- A number in decimal. -/
def decimal (n : Nat) : String := Nat.repr n

/-! ## Messages -/

/-- The fields `ch`, `d0` and `d1` of a channel message. -/
def channelText (name : String) (c : Nibble) (data : List Data7) : String :=
  name ++ " ch=" ++ decimal c.toNat ++
    String.join (data.zipIdx.map fun x => " d" ++ decimal x.2 ++ "=" ++ decimal x.1.toNat)

/-- A message: its kind name followed by its fields. The quarter-frame byte is written in hexadecimal, every other
number in decimal, as in the examples of R89 (notes/assumptions/25.md). -/
def bodyText : Body → String
  | .noteOff c d0 d1 => channelText "NoteOff" c [d0, d1]
  | .noteOn c d0 d1 => channelText "NoteOn" c [d0, d1]
  | .polyPressure c d0 d1 => channelText "PolyPressure" c [d0, d1]
  | .controlChange c d0 d1 => channelText "ControlChange" c [d0, d1]
  | .programChange c d0 => channelText "ProgramChange" c [d0]
  | .channelPressure c d0 => channelText "ChannelPressure" c [d0]
  | .pitchBend c d0 d1 => channelText "PitchBend" c [d0, d1]
  | .sysEx p => "SysEx " ++ bytesText p
  | .mtcQuarterFrame q => "MTCQuarterFrame d0=" ++ hexByte (dataByte q)
  | .songPosition beats => "SongPosition beats=" ++ decimal beats.toNat
  | .songSelect n => "SongSelect d0=" ++ decimal n.toNat
  | .tuneRequest => "TuneRequest"
  | .clock => "Clock"
  | .start => "Start"
  | .cont => "Continue"
  | .stop => "Stop"
  | .activeSense => "ActiveSense"
  | .reset => "Reset"

/-- A record at a port: the message it stands for, and `kind=0xF4` for a tag that is none of the 18 (the spelling of
95_test_vectors.md V-ENC-22; notes/assumptions/25.md). -/
def recordText (m : MsgRecord) : String :=
  match m.body with
  | some body => bodyText body
  | none => "kind=" ++ hexByte m.kind

/-- A message with its timestamp: "a trailing `@t` gives the timestamp". -/
def stampedText (m : MsgRecord) : String := recordText m ++ " @" ++ decimal m.timestamp.toNat

/-! ## Operations -/

/-- What can be written as an operation: an instruction, or DEC.ARRIVAL, "the only pseudo-operation" (R89, R88). -/
inductive Written where
  | one (i : Instr)
  | arrival (ts : Stamp) (bytes : List Byte)
deriving DecidableEq, Repr

/-- The commands at instance number `k` that a written operation stands for. -/
def Written.commands (k : Nat) : Written → List Command
  | .one i => [⟨k, encode i⟩]
  | .arrival ts bytes => arrivalCommands k ts bytes

/-- An instruction: an operation as its name and operands, a wire row as its byte string. -/
def instrText (i : Instr) : String :=
  match i, encode i with
  | .decByte b ts, _ => "DEC.BYTE " ++ hexByte b ++ ", ts=" ++ decimal ts.toNat
  | .decEnd, _ => "DEC.END"
  | .decReset, _ => "DEC.RESET"
  | .encMsg m, _ => "ENC.MSG " ++ recordText m
  | .mtcPush qf, _ => "MTC.PUSH " ++ hexByte qf
  | .mtcReset, _ => "MTC.RESET"
  | .sppEnc beats, _ => "SPP.ENC " ++ decimal beats.toNat
  | .sppDec lsb msb, _ => "SPP.DEC " ++ hexByte (dataByte lsb) ++ ", " ++ hexByte (dataByte msb)
  | .rst, _ => "RST"
  | _, .wire b _ => bytesText [b]
  | _, .op _ _ => ""

/-- A written operation. -/
def Written.text : Written → String
  | .one i => instrText i
  | .arrival ts bytes => "DEC.ARRIVAL ts=" ++ decimal ts.toNat ++ ", " ++ bytesText bytes

/-! ## What an operation returns -/

/-- A condition by its name (60_exceptions.md R250). -/
def Status.text : Status → String
  | .ok => "OK"
  | .invalidArgument => "InvalidArgument"
  | .bufferOverflow => "BufferOverflow"
  | .invalidMessage => "InvalidMessage"

/-- A frame, as 42_mtc.md R211 writes one; the two characters are the curly brackets. -/
def frameText (f : Frame) : String :=
  String.singleton (Char.ofNat 0x7B) ++ "hours=" ++ decimal f.hours.toNat ++ ", minutes=" ++ decimal f.minutes.toNat ++
    ", seconds=" ++ decimal f.seconds.toNat ++ ", frames=" ++ decimal f.frames.toNat ++
    ", rate=" ++ decimal f.rate.toNat ++ String.singleton (Char.ofNat 0x7D)

/-- The values a result carries beside its status. -/
def Result.values : Result → List String
  | .decByte _ m => (m.map stampedText).toList
  | .encMsg _ bytes => [bytesText bytes]
  | .mtcPush _ f => (f.map frameText).toList
  | .sppEnc _ lsb msb => ["lsb=" ++ hexByte (dataByte lsb), "msb=" ++ hexByte (dataByte msb)]
  | .sppDec _ beats => ["beats=" ++ decimal beats.toNat]
  | .decEnd _ => []
  | .decReset _ => []
  | .mtcReset _ => []
  | .rst _ => []

/-- What an operation returns: its status, then its values. -/
def Result.text (r : Result) : String := String.intercalate ", " (r.status.text :: r.values)

/-- "`->` before what the operation returns". -/
def returnsText (i : Instr) (r : Result) : String := instrText i ++ " -> " ++ r.text

end Sys2Proof.Machine
end

