-- ==== Sys2Proof/Tests/Slice0.lean ====
section
/-! SUPPORT. The model's own tests. Expected results are from spec/95_test_vectors.md and the tables of
spec/30_encoding.md; then one witness for the hypotheses of each statement that has some. -/

namespace Sys2Proof.Tests

open Sys2Proof.Machine

/-! ## Small states -/

/-- An idle DEC with every register 0. -/
def idle : Dec := ⟨[], 0, false, false, 0, 0, 0, 0, 0⟩

/-- A SysEx in progress that holds `01 02`. -/
def capturing : Dec := { idle with sxBuf := [(0, 1), (1, 2)], sxLen := 2, sxOpen := true }

/-- A NoteOn on channel 0 that has its first data byte 60. -/
def pending : Dec := { idle with pendStatus := 0x90, pendNeed := 1, pendHave := 1, pendD0 := 60 }

/-- DEC after an overflow of a buffer of two bytes. -/
def faulted : Dec := { capturing with decFault := true }

/-- One stream with the given DEC and an empty MTC. -/
def machine (cap : Nat) (d : Dec) : State := ⟨⟨cap, false⟩, ⟨[], ⟨d, Mtc.reset⟩, []⟩, [], []⟩

/-- The state a step answers, if it answers one. -/
def next? (o : Host.Outcome State Fault Refusal) : Option State :=
  match o with
  | .next t => some t
  | _ => none

/-- DEC after a step, and the last result returned. -/
def after (o : Host.Outcome State Fault Refusal) : Option (Dec × Option Result) :=
  (next? o).map fun t => (t.streams.here.dec, t.returned.getLast?.map Returned.result)

/-- MTC after a step, and the last result returned. -/
def afterMtc (o : Host.Outcome State Fault Refusal) : Option (Mtc × Option Result) :=
  (next? o).map fun t => (t.streams.here.mtc, t.returned.getLast?.map Returned.result)

/-- The status and the messages of an arrival. -/
def heard (r : Except Fault ArrivalOut) : Option (Status × List Message) :=
  match r with
  | .ok a => some (a.status, a.msgs)
  | .error _ => none

/-! ## WellFormed -/

theorem smoke_wellFormed_refuses_short_payload :
    WellFormed (.encMsg { MsgRecord.zero with kind := 0xF0, length := 3, payload := [1, 2] }) = false := by decide

theorem smoke_wellFormed_takes_sysEx :
    WellFormed (.encMsg { MsgRecord.zero with kind := 0xF0, length := 2, payload := [1, 2] }) = true := by decide

/-! ## Decoding: 30_encoding.md R72, R87, bits written out -/

theorem test_decode_data : decodeWire 0b01111111#8 9 = .data 0x7F 9 := by decide

theorem test_decode_channel :
    decodeWire 0b10000001#8 9 = .noteOff 1 9 ∧ decodeWire 0b10010010#8 9 = .noteOn 2 9 ∧
    decodeWire 0b10100011#8 9 = .polyPressure 3 9 ∧ decodeWire 0b10110100#8 9 = .controlChange 4 9 ∧
    decodeWire 0b11000101#8 9 = .programChange 5 9 ∧ decodeWire 0b11010110#8 9 = .channelPressure 6 9 ∧
    decodeWire 0b11101111#8 9 = .pitchBend 15 9 := by decide

theorem test_decode_system_common :
    decodeWire 0b11110000#8 9 = .sysExStart 9 ∧ decodeWire 0b11110001#8 9 = .mtcQuarterFrame 9 ∧
    decodeWire 0b11110010#8 9 = .songPosition 9 ∧ decodeWire 0b11110011#8 9 = .songSelect 9 ∧
    decodeWire 0b11110100#8 9 = .reservedF4 9 ∧ decodeWire 0b11110101#8 9 = .reservedF5 9 ∧
    decodeWire 0b11110110#8 9 = .tuneRequest 9 ∧ decodeWire 0b11110111#8 9 = .sysExEnd 9 := by decide

theorem test_decode_real_time :
    decodeWire 0b11111000#8 9 = .clock 9 ∧ decodeWire 0b11111001#8 9 = .reservedF9 9 ∧
    decodeWire 0b11111010#8 9 = .start 9 ∧ decodeWire 0b11111011#8 9 = .cont 9 ∧
    decodeWire 0b11111100#8 9 = .stop 9 ∧ decodeWire 0b11111101#8 9 = .reservedFD 9 ∧
    decodeWire 0b11111110#8 9 = .activeSense 9 ∧ decodeWire 0b11111111#8 9 = .reset 9 := by decide

/-- Operand ports of which every one holds something. -/
def ports : OpPorts := ⟨0xF8, 7, { MsgRecord.zero with kind := 8 }, 0x76, 200, 0x48, 1⟩

theorem test_decode_operations :
    decode (.op 0b0001#4 ports) = .ok (.decByte 0xF8 7) ∧ decode (.op 0b0010#4 ports) = .ok .decEnd ∧
    decode (.op 0b0011#4 ports) = .ok .decReset ∧
    decode (.op 0b0100#4 ports) = .ok (.encMsg { MsgRecord.zero with kind := 8 }) ∧
    decode (.op 0b0101#4 ports) = .ok (.mtcPush 0x76) ∧ decode (.op 0b0110#4 ports) = .ok .mtcReset ∧
    decode (.op 0b0111#4 ports) = .ok (.sppEnc 200) ∧ decode (.op 0b1000#4 ports) = .ok (.sppDec 0x48 1) ∧
    decode (.op 0b1001#4 ports) = .ok .rst := ⟨rfl, rfl, rfl, rfl, rfl, rfl, rfl, rfl, rfl⟩

theorem test_decode_refuses_unassigned : decode (.op 0b1010#4 ports) = .error (.unassignedOperation 0xA) := rfl

theorem test_table_words :
    decodeTableWord 8 0x00 = some (.data 0 0) ∧ decodeTableWord 8 0x95 = some (.noteOn 5 0) ∧
    decodeTableWord 8 0x05 = some (.mtcPush 0) ∧ decodeTableWord 4 0x9 = some .rst ∧ decodeTableWord 4 0xA = none := by
  decide

/-! ## One step each: 95_test_vectors.md and the examples of the rules -/

/-- V-SRC-4, third byte: `Clock @1`, the buffer not disturbed. -/
theorem test_clock_in_sysEx :
    after (exec (.clock 1) (machine 8 capturing)) =
      some (capturing, some (.decByte .ok (some ⟨0xF8, 0, 0, 0, 0, 0, [], 1⟩))) := by decide

/-- V-DEC-7. -/
theorem test_other_real_time :
    after (exec (.start 1) (machine 4 idle)) = some (idle, some (.decByte .ok (some ⟨0xFA, 0, 0, 0, 0, 0, [], 1⟩))) ∧
    after (exec (.cont 1) (machine 4 idle)) = some (idle, some (.decByte .ok (some ⟨0xFB, 0, 0, 0, 0, 0, [], 1⟩))) ∧
    after (exec (.stop 1) (machine 4 idle)) = some (idle, some (.decByte .ok (some ⟨0xFC, 0, 0, 0, 0, 0, [], 1⟩))) ∧
    after (exec (.activeSense 1) (machine 4 idle)) =
      some (idle, some (.decByte .ok (some ⟨0xFE, 0, 0, 0, 0, 0, [], 1⟩))) := by decide

/-- V-DEC-29: the Reset message resets nothing. -/
theorem test_reset_message :
    after (exec (.reset 1) (machine 8 capturing)) =
      some (capturing, some (.decByte .ok (some ⟨0xFF, 0, 0, 0, 0, 0, [], 1⟩))) := by decide

/-- V-DEC-7: 0xF9 and 0xFD give nothing, and a pending message stays (R120). -/
theorem test_reserved_real_time :
    after (exec (.reservedF9 1) (machine 4 pending)) = some (pending, some (.decByte .ok none)) ∧
    after (exec (.reservedFD 1) (machine 4 pending)) = some (pending, some (.decByte .ok none)) := by decide

/-- V-DEC-12: after the fault a second 0xF8 is discarded. -/
theorem test_clock_faulted :
    after (exec (.clock 1) (machine 2 faulted)) = some (faulted, some (.decByte .bufferOverflow none)) := by decide

/-- V-DEC-21: 0xF0 drops the pending NoteOn and opens a SysEx. -/
theorem test_sysExStart :
    after (exec (.sysExStart 1) (machine 4 pending)) =
      some ({ pending with pendNeed := 0, pendHave := 0, sxOpen := true }, some (.decByte .ok none)) := by decide

/-- V-DEC-26: a second 0xF0 is payload. -/
theorem test_sysExStart_is_payload :
    (after (exec (.sysExStart 1) (machine 4 capturing))).map (fun x => (x.1.sxBuf, x.1.sxLen)) =
      some ([(0, 1), (1, 2), (2, 0xF0)], 3) := by decide

/-- V-SRC-4, last byte. -/
theorem test_sysExEnd :
    after (exec (.sysExEnd 1) (machine 4 capturing)) =
      some ({ capturing with sxOpen := false, sxLen := 0 },
        some (.decByte .ok (some ⟨0xF0, 0, 0, 0, 0, 2, [1, 2], 1⟩))) := by decide

/-- V-DEC-22: a stray 0xF7 drops the pending message. -/
theorem test_sysExEnd_stray :
    after (exec (.sysExEnd 1) (machine 4 pending)) =
      some ({ pending with pendNeed := 0, pendHave := 0 }, some (.decByte .ok none)) := by decide

/-- V-DEC-20: a status in a data position drops the pending message and starts its own. -/
theorem test_noteOff_drops_pending :
    (after (exec (.noteOff 0 1) (machine 4 pending))).map
      (fun x => (x.1.pendStatus, x.1.pendNeed, x.1.pendHave, x.2)) =
      some (0x80, 2, 0, some (.decByte .ok none)) := by decide

/-- V-DEC-2: the statuses of the seven channel kinds and their data counts. -/
theorem test_channel_statuses :
    ([Instr.noteOn 1 1, .polyPressure 2 1, .controlChange 3 1, .programChange 4 1, .channelPressure 5 1,
        .pitchBend 15 1].map fun i => (after (exec i (machine 4 idle))).map fun x => (x.1.pendStatus, x.1.pendNeed)) =
      [some (0x91, 2), some (0xA2, 2), some (0xB3, 2), some (0xC4, 1), some (0xD5, 1), some (0xEF, 2)] := by decide

/-- V-DEC-15: a channel status inside a SysEx is payload. -/
theorem test_noteOn_is_payload :
    (after (exec (.noteOn 0 1) (machine 8 capturing))).map (fun x => x.1.sxBuf) =
      some [(0, 1), (1, 2), (2, 0x90)] := by decide

/-- V-DEC-4, V-DEC-5: the system-common statuses. -/
theorem test_system_common_statuses :
    ([Instr.mtcQuarterFrame 1, .songPosition 1, .songSelect 1].map fun i =>
        (after (exec i (machine 4 idle))).map fun x => (x.1.pendStatus, x.1.pendNeed)) =
      [some (0xF1, 1), some (0xF2, 2), some (0xF3, 1)] := by decide

/-- V-DEC-6 and R132: TuneRequest drops a pending message. -/
theorem test_tuneRequest :
    after (exec (.tuneRequest 1) (machine 4 pending)) =
      some ({ pending with pendNeed := 0, pendHave := 0 },
        some (.decByte .ok (some ⟨0xF6, 0, 0, 0, 0, 0, [], 1⟩))) := by decide

/-- V-DEC-8 and R133. -/
theorem test_reservedF4F5 :
    after (exec (.reservedF4 1) (machine 4 pending)) =
      some ({ pending with pendNeed := 0, pendHave := 0 }, some (.decByte .ok none)) ∧
    after (exec (.reservedF5 1) (machine 4 idle)) = some (idle, some (.decByte .ok none)) := by decide

/-- V-DEC-1, last byte. -/
theorem test_data_completes_noteOn :
    (after (exec (.data 100 1) (machine 4 pending))).map (fun x => x.2) =
      some (some (.decByte .ok (some ⟨0x09, 0, 60, 100, 0, 0, [], 1⟩))) := by decide

/-- V-DEC-11, last byte: overflow, the byte not stored. -/
theorem test_data_overflows :
    after (exec (.data 5 1) (machine 2 capturing)) = some (faulted, some (.decByte .bufferOverflow none)) := by decide

/-- V-DEC-31. -/
theorem test_decByte :
    (after (exec (.decByte 0x7F 1) (machine 4 { pending with pendStatus := 0xB0, pendD0 := 7 }))).map (fun x => x.2) =
      some (some (.decByte .ok (some ⟨0x0B, 0, 7, 127, 0, 0, [], 1⟩))) := by decide

/-- V-DEC-19 and R126: DEC.END drops a pending message and keeps a SysEx in progress. -/
theorem test_decEnd :
    after (exec .decEnd (machine 4 pending)) =
      some ({ pending with pendNeed := 0, pendHave := 0 }, some (.decEnd .ok)) ∧
    after (exec .decEnd (machine 4 capturing)) = some (capturing, some (.decEnd .ok)) := by decide

/-- P2, step 4. -/
theorem test_decReset :
    after (exec .decReset (machine 2 faulted)) =
      some ({ faulted with decFault := false, sxOpen := false, sxLen := 0 }, some (.decReset .ok)) := by decide

/-- V-ENC-8, V-ENC-14, V-ENC-16, V-ENC-23. -/
theorem test_encMsg :
    ([MsgRecord.mk 0x0C 5 7 99 0 0 [] 0, ⟨0xF2, 0, 0, 0, 200, 0, [], 0⟩, ⟨0xF2, 0, 0, 0, 0x4000, 0, [], 0⟩,
        ⟨0xF8, 7, 1, 0, 9, 0, [], 0⟩].map encResult) =
      [.encMsg .ok [0xC5, 0x07], .encMsg .ok [0xF2, 0x48, 0x01], .encMsg .ok [0xF2, 0, 0], .encMsg .ok [0xF8]] := by
  decide

/-- V-ENC-22, V-ENC-24. -/
theorem test_encMsg_unknown_and_sysEx :
    ([MsgRecord.mk 0x90 0 0 0 0 0 [] 0, ⟨0xF7, 0, 0, 0, 0, 0, [], 0⟩, ⟨0xF0, 0, 0, 0, 0, 3, [1, 0xF7, 2], 0⟩].map
        encResult) =
      [.encMsg .invalidMessage [], .encMsg .invalidMessage [], .encMsg .ok [0xF0, 1, 0xF7, 2, 0xF7]] := by decide

/-- V-SRC-2, eighth push, with bit 7 of the operand set (V-MTC-3). -/
theorem test_mtcPush_eighth :
    afterMtc (exec (.mtcPush 0xF6)
      ((machine 4 idle).setMtc ⟨#v[0xA, 0, 0xD, 2, 7, 1, 1, 0], 7⟩)) =
      some (⟨#v[0xA, 0, 0xD, 2, 7, 1, 1, 6], 0⟩, some (.mtcPush .ok (some ⟨1, 23, 45, 10, 3⟩))) := by decide

/-- V-MTC-9: with `MTC_CLEAR_ON_FRAME` the slots are zeroed by the push that produces a frame. -/
theorem test_mtcPush_clears :
    (Mtc.push true ⟨#v[0xA, 0, 0xD, 2, 7, 1, 1, 0], 7⟩ 0x76) =
      (⟨#v[0, 0, 0, 0, 0, 0, 0, 0], 0⟩, some ⟨1, 23, 45, 10, 3⟩) := by decide

/-- R214's example. -/
theorem test_mtcReset :
    afterMtc (exec .mtcReset ((machine 4 idle).setMtc ⟨#v[0xA, 0, 0, 0, 0, 0, 0, 0], 2⟩)) =
      some (⟨#v[0, 0, 0, 0, 0, 0, 0, 0], 0⟩, some (.mtcReset .ok)) := by decide

/-- V-SPP-6, V-SPP-10. -/
theorem test_sppEnc :
    (after (exec (.sppEnc 0x1234) (machine 4 idle))).map (fun x => x.2) = some (some (.sppEnc .ok 0x34 0x24)) ∧
    (after (exec (.sppEnc 0xFFFF) (machine 4 idle))).map (fun x => x.2) = some (some (.sppEnc .ok 0x7F 0x7F)) := by
  decide

/-- V-SPP-11, V-SPP-13. -/
theorem test_sppDec :
    (after (exec (.sppDec 0x48 0x01) (machine 4 idle))).map (fun x => x.2) = some (some (.sppDec .ok 200)) ∧
    (after (exec (.sppDec 0x00 0x40) (machine 4 idle))).map (fun x => x.2) = some (some (.sppDec .ok 8192)) := by decide

/-- R280: the registers RST gives a value. -/
theorem test_rst :
    (after (exec .rst (machine 2 faulted))).map (fun x => (x.1.mode, x.1.sxLen, x.1.pendHave)) = some (.idle, 0, 0) ∧
    (after (exec .rst (machine 2 faulted))).map (fun x => x.2) = some (some (.rst .ok)) := by decide

/-- P4 with `SYSEX_CAP = 3`: messages 1 to 3 stand, then `BufferOverflow` and nothing more. -/
theorem test_arrival_overflow :
    heard (idle.arrival 3 9 [0x90, 0x3C, 0x64, 0xC5, 0x07, 0xF2, 0x48, 0x01, 0xF0, 0x7E, 0x7F, 9, 1, 0xF7, 0xF6]) =
      some (.bufferOverflow, [⟨.noteOn 0 60 100, 9⟩, ⟨.programChange 5 7, 9⟩, ⟨.songPosition 200, 9⟩]) := by decide

/-- The source's algorithm on the arrival of V-SRC-4 (R150). -/
theorem test_wholeBuffer :
    wholeBuffer 8 1 none [0xF0, 0x01, 0xF8, 0x02, 0xF7] =
      some ([⟨.clock, 1⟩, ⟨.sysEx [1, 2], 1⟩], none) := by decide

/-- V-HOST-1, V-HOST-5, V-HOST-7. -/
theorem test_host_functions :
    frameSeconds ⟨1, 23, 45, 10, 3⟩ = 15076 / 3 ∧ tempo 0 0 (2083 / 100000) = 250000 / 2083 ∧
    tempo (975 / 10) 1 1 = 975 / 10 := by
  refine ⟨?_, by norm_num [tempo], by norm_num [tempo]⟩
  show ((1 : ℕ) : ℚ) * 3600 + (23 : ℕ) * 60 + (45 : ℕ) + (10 : ℕ) / 30 = 15076 / 3
  norm_num

/-! ## The notation: the examples of 30_encoding.md R89, and R211's and R191's -/

theorem test_notation_messages :
    bytesText [0xF0, 0x01, 0x02] = "[F0 01 02]" ∧ bodyText (.noteOn 0 60 100) = "NoteOn ch=0 d0=60 d1=100" ∧
    bodyText (.programChange 5 7) = "ProgramChange ch=5 d0=7" ∧ bodyText (.sysEx [1, 2, 3]) = "SysEx [01 02 03]" ∧
    bodyText (.mtcQuarterFrame 0x76) = "MTCQuarterFrame d0=0x76" ∧
    bodyText (.songPosition 200) = "SongPosition beats=200" ∧ bodyText (.songSelect 5) = "SongSelect d0=5" ∧
    stampedText (Message.toRecord ⟨.clock, 2⟩) = "Clock @2" := by decide

theorem test_notation_operations :
    (Written.one (.decByte 0xF8 1)).text = "DEC.BYTE 0xF8, ts=1" ∧
    (Written.arrival 1 [0xF0, 0x01, 0x02]).text = "DEC.ARRIVAL ts=1, [F0 01 02]" ∧
    (Written.one (.encMsg ((Body.noteOn 0 60 100).toRecord 0))).text = "ENC.MSG NoteOn ch=0 d0=60 d1=100" ∧
    (Written.one (.mtcPush 0x0A)).text = "MTC.PUSH 0x0A" ∧ (Written.one (.sppEnc 200)).text = "SPP.ENC 200" ∧
    (Written.one (.sppDec 0x48 0x01)).text = "SPP.DEC 0x48, 0x01" := by decide

theorem test_notation_returns :
    returnsText (.sppEnc 200) (.sppEnc .ok 0x48 0x01) = "SPP.ENC 200 -> OK, lsb=0x48, msb=0x01" ∧
    returnsText (.encMsg { MsgRecord.zero with kind := 0xF4 }) (.encMsg .invalidMessage []) =
      "ENC.MSG kind=0xF4 -> InvalidMessage, []" := by decide

/-- R88: "With `n = 0` it is a lone DEC.END." -/
theorem test_written_empty_arrival : (Written.arrival 1 []).commands 0 = (Written.one .decEnd).commands 0 := rfl

/-! ## The step -/

/-- A build of two streams with a DEC.BYTE queued for the second. -/
def twoStreams (w : PortWord) (k : Nat) : State :=
  ⟨⟨4, false⟩, ⟨[], ⟨pending, Mtc.reset⟩, [⟨capturing, Mtc.reset⟩]⟩, [⟨k, w⟩], []⟩

theorem test_step_second_stream :
    (next? (step (twoStreams (.wire 0xF7 3) 1))).map
      (fun t => (t.streams.all.map (fun x => x.dec.mode), t.input, t.returned)) =
      some ([.pend, .idle], [], [⟨some 1, .decByte .ok (some ⟨0xF0, 0, 0, 0, 0, 2, [1, 2], 3⟩)⟩]) := by decide

theorem test_step_runs_table_word : step (State.reset.withFetchWord 8 0x93) = exec (.noteOn 3 0) State.reset := rfl

theorem test_step_runs_operation : step (State.reset.withFetchWord 8 0x9) = exec .rst State.reset := rfl

/-! ## Witnesses: each statement's hypotheses are met together -/

theorem capturing_inv : capturing.Inv 4 where
  closedEmpty := by decide
  lenLeCap := by decide
  openNothingPending := by decide
  nonePendingNoneHeld := by decide
  pendingCount := by decide
  faultFull := by decide
  bufWf := by decide
  bufPrefix := by decide
  bufBytes := by decide

theorem pending_inv : pending.Inv 4 where
  closedEmpty := by decide
  lenLeCap := by decide
  openNothingPending := by decide
  nonePendingNoneHeld := by decide
  pendingCount := by decide
  faultFull := by decide
  bufWf := by decide
  bufPrefix := by decide
  bufBytes := by decide

theorem faulted_inv : faulted.Inv 2 where
  closedEmpty := by decide
  lenLeCap := by decide
  openNothingPending := by decide
  nonePendingNoneHeld := by decide
  pendingCount := by decide
  faultFull := by decide
  bufWf := by decide
  bufPrefix := by decide
  bufBytes := by decide

theorem idle_inv : idle.Inv 4 where
  closedEmpty := by decide
  lenLeCap := by decide
  openNothingPending := by decide
  nonePendingNoneHeld := by decide
  pendingCount := by decide
  faultFull := by decide
  bufWf := by decide
  bufPrefix := by decide
  bufBytes := by decide

theorem twoStreams_inv (w : PortWord) (k : Nat) : (twoStreams w k).Inv where
  capPos := by simp [twoStreams]
  streams := by
    intro x hx
    simp only [twoStreams, Streams.all, List.nil_append, List.mem_cons, List.not_mem_nil, or_false] at hx
    rcases hx with rfl | rfl
    · exact pending_inv
    · exact capturing_inv

theorem witness_DecodeInvertsEncode : WellFormed (.encMsg ⟨0xF0, 0, 0, 0, 0, 1, [7], 3⟩) = true := by decide

theorem witness_StepRunsTheDecodedInstruction :
    let s := twoStreams (.wire 0xF7 3) 1
    s.input = [⟨1, .wire 0xF7 3⟩] ∧ decode (.wire 0xF7 3) = .ok (.sysExEnd 3) ∧ onStream (.sysExEnd 3) = true ∧
      1 < s.streams.all.length := ⟨rfl, rfl, rfl, by decide⟩

theorem witness_StepRunsTheDecodedInstruction_shared :
    (twoStreams (encode (.sppEnc 200)) 5).input = [⟨5, encode (.sppEnc 200)⟩] ∧
      decode (encode (.sppEnc 200)) = .ok (.sppEnc 200) ∧ onStream (.sppEnc 200) = false := ⟨rfl, rfl, rfl⟩

theorem witness_StepHoldsRefusesOrFaults :
    (machine 4 idle).input = [] ∧
    (twoStreams (.op 0xA ports) 0).input = [⟨0, .op 0xA ports⟩] ∧
    decode (.op 0xA ports) = .error (.unassignedOperation 0xA) ∧
    (twoStreams (.wire 0 0) 2).input = [⟨2, .wire 0 0⟩] ∧ decode (.wire 0 0) = .ok (.data 0 0) ∧
    onStream (.data 0 0) = true ∧ (twoStreams (.wire 0 0) 2).streams.all.length ≤ 2 :=
  ⟨rfl, rfl, rfl, rfl, rfl, rfl, by decide⟩

/-- For `RealTimeByteEmitsItsMessage`, `ReservedRealTimeBytesAreSkipped` (the first part), `SysExStartOpensTheCapture`,
`StraySysExEndIsSkipped`, `StatusByteStartsItsMessage` and `TuneRequestAndReservedBytes`. -/
theorem witness_not_faulted : (machine 4 idle).streams.here.dec.decFault = false ∧
    (machine 4 idle).streams.here.dec.sxOpen = false := by decide

theorem witness_FaultedDecoderDiscardsEveryByte : (machine 2 faulted).streams.here.dec.decFault = true := by decide

theorem witness_PayloadByteIsAppended :
    let s := machine 3 capturing
    s.streams.here.dec.decFault = false ∧ s.streams.here.dec.sxOpen = true ∧ 0xF6#8 ≤ 0xF6#8 ∧
      s.streams.here.dec.sxLen < s.params.sysexCap := by decide

theorem witness_PayloadByteOverflowsAFullBuffer :
    let s := machine 2 capturing
    s.streams.here.dec.decFault = false ∧ s.streams.here.dec.sxOpen = true ∧ 0xF6#8 ≤ 0xF6#8 ∧
      s.streams.here.dec.sxLen = s.params.sysexCap := by decide

theorem witness_SysExEndEmitsThePayload :
    let d := (machine 2 capturing).streams.here.dec
    d.decFault = false ∧ d.sxOpen = true ∧ ∀ a, a < d.sxLen → (Memory.read d.sxBuf a).isSome = true := by decide

theorem witness_SysExIsReassembledAcrossArrivals :
    let wire := [1, 0xF8] ++ [(2, [0x90#8]), (3, [])].flatMap Prod.snd ++ ([2] : List Byte)
    idle.decFault = false ∧ idle.sxOpen = false ∧ 0xF7#8 ∉ wire ∧ (wire.filter (· < 0xF7#8)).length ≤ 3 := by decide

theorem witness_OverflowThenResetDecodesNormally :
    idle.decFault = false ∧ idle.sxOpen = false ∧ ([1, 2, 3] : List Byte).length = 2 + 1 ∧
      (∀ b ∈ ([1, 2, 3] : List Byte), b < 0xF7#8) ∧ (Body.sysEx [1, 2]).representable 2 :=
  ⟨rfl, rfl, rfl, by decide, by simp [Body.representable]⟩

theorem witness_StrayDataByteIsSkipped :
    let d := (machine 4 idle).streams.here.dec
    d.decFault = false ∧ d.sxOpen = false ∧ d.pendNeed = 0 := by decide

/-- One witness for each clause: the first of two data bytes, the last of two, the last of a beat count, and the only
data byte of each one-data kind. -/
theorem witness_DataByteOfAPendingMessage :
    pending.decFault = false ∧ pending.sxOpen = false ∧
    ({ pending with pendNeed := 2, pendHave := 0 } : Dec).pendNeed = 2 ∧
    (pending.pendNeed = 1 ∧ pending.pendHave = 1 ∧ pending.pendStatus = 0x9#4 ++ 0#4) ∧
    (∀ k ∈ [0x8#4, 0xA#4, 0xB#4, 0xE#4], ({ pending with pendStatus := k ++ 15#4 } : Dec).pendStatus = k ++ 15#4) ∧
    ({ pending with pendStatus := 0xF2 } : Dec).pendStatus = 0xF2#8 ∧
    (∀ b ∈ [0xC#4 ++ 3#4, 0xD#4 ++ 3#4, 0xF1#8, 0xF3#8],
      ({ pending with pendStatus := b, pendHave := 0 } : Dec).pendStatus = b) := by decide

theorem witness_DecByteCompletes : (machine 4 pending).streams.here.dec.Inv (machine 4 pending).params.sysexCap :=
  pending_inv

/-- One witness for each mode. -/
theorem witness_ModeTransitions :
    (idle.Inv 4 ∧ idle.mode = .idle ∧ idle.byte 4 0xF0 1 = .ok { dec := { idle with sxOpen := true }, status := .ok, msg := none }) ∧
    (pending.Inv 4 ∧ pending.mode = .pend ∧ pending.pendNeed = 1) ∧
    (capturing.Inv 4 ∧ capturing.mode = .sysEx ∧ capturing.sxLen < 4) ∧
    (faulted.Inv 2 ∧ faulted.mode = .fault) :=
  ⟨⟨idle_inv, rfl, rfl⟩, ⟨pending_inv, rfl, rfl⟩, ⟨capturing_inv, rfl, by decide⟩, ⟨faulted_inv, rfl⟩⟩

theorem witness_RealTimeBytesAreTransparent :
    pending.decFault = false ∧
    pending.arrival 4 1 [0xF8, 0x40] =
      .ok ⟨{ pending with pendNeed := 0, pendHave := 0 }, .ok, [⟨.clock, 1⟩, ⟨.noteOn 0 60 0x40, 1⟩]⟩ := ⟨rfl, rfl⟩

theorem witness_ArrivalRunsAsItsCommands :
    let s := { machine 4 pending with input := arrivalCommands 0 1 [0x40] ++ [] }
    s.input = arrivalCommands s.streams.index 1 [0x40] ++ [] ∧
    s.streams.here.dec.arrival s.params.sysexCap 1 [0x40] =
      .ok ⟨{ pending with pendNeed := 0, pendHave := 0 }, .ok, [⟨.noteOn 0 60 0x40, 1⟩]⟩ := ⟨rfl, rfl⟩

theorem witness_AgreesWithTheWholeBufferAlgorithm :
    capturing.holds (some [1, 2]) ∧
    wholeBuffer 4 1 (some [1, 2]) [0x03, 0xF7, 0x90, 0x3C, 0x40] =
      some ([⟨.sysEx [1, 2, 3], 1⟩, ⟨.noteOn 0 60 64, 1⟩], none) := ⟨⟨rfl, rfl, rfl, rfl, rfl⟩, rfl⟩

theorem witness_UnspecifiedContentsAreUnobservable :
    idle.Inv 4 ∧ idle.SameObservable { idle with sxBuf := [(0, 9)], pendStatus := 0x42, pendD0 := 3 } ∧
    idle.byte 4 0xF6 1 = .ok ⟨idle, .ok, some ⟨.tuneRequest, 1⟩⟩ :=
  ⟨idle_inv, ⟨rfl, rfl, rfl, rfl, rfl, fun h => absurd rfl h, fun h => absurd rfl h, fun a h => absurd h (Nat.not_lt_zero a)⟩,
    rfl⟩

theorem witness_EveryStepKeepsTheInvariant :
    (twoStreams (.wire 0x40 3) 0).Inv ∧ (next? (step (twoStreams (.wire 0x40 3) 0))).isSome = true ∧
    (next? (exec .decEnd (machine 4 pending))).isSome = true := ⟨twoStreams_inv _ _, by decide, by decide⟩

theorem witness_InvariantRulesOutFaults : (twoStreams (.wire 0xF7 3) 1).Inv := twoStreams_inv _ _

theorem witness_LengthFitsItsWidth : faulted.Inv 2 ∧ ∀ n, n ≤ 2 → n < 2 ^ 2 := ⟨faulted_inv, by decide⟩

theorem witness_EmittedMessagesKeepTheirInvariants :
    capturing.Inv 4 ∧
    (next? (exec (.sysExEnd 1) (machine 4 capturing))).map State.returned =
      some ((machine 4 capturing).returned ++
        [⟨some 0, .decByte .ok (some ⟨0xF0, 0, 0, 0, 0, 2, [1, 2], 1⟩)⟩]) := ⟨capturing_inv, by decide⟩

/-- For `ConditionsComeOnlyFromTheirOperations`, `UnitsShareNoState` and `OnlyTheAppendWritesTheBuffer`. -/
theorem witness_exec_next :
    (next? (exec (.mtcPush 0) (machine 4 idle))).isSome = true ∧ (next? (exec (.sppEnc 0) (machine 4 idle))).isSome = true ∧
    (next? (exec (.decByte 5 0) (machine 4 capturing))).isSome = true ∧
    storeAddress (.decByte 5 0) (machine 4 capturing) = some 2 ∧
    storeAddress (.decByte 0xF7 0) (machine 4 capturing) = none := by decide

theorem witness_CommandsToDifferentStreamsCommute :
    (next? (Sys2Proof.core.run 2
      { twoStreams (.wire 0 0) 0 with input := [⟨0, .wire 0x40 1⟩, ⟨1, encode (.mtcPush 3)⟩] })).isSome = true := by
  decide

/-- For `EncodesChannelMessages`, `EncodesSystemMessages`, `EncodesSysEx`, `EncodingAMalformedRecordIsRefused` and
`EncodingAnUnknownKindIsInvalid`. -/
theorem witness_Encodes :
    (⟨0x0C, 5, 7, 9, 0, 0, [], 0⟩ : MsgRecord).kind = 0x0C#8 ∧ (⟨0xF2, 0, 0, 0, 200, 0, [], 0⟩ : MsgRecord).kind = 0xF2#8 ∧
    (⟨0xF0, 0, 0, 0, 0, 1, [7], 0⟩ : MsgRecord).payload.length = (⟨0xF0, 0, 0, 0, 0, 1, [7], 0⟩ : MsgRecord).length ∧
    (⟨0xF0, 0, 0, 0, 0, 2, [7], 0⟩ : MsgRecord).payload.length ≠ (⟨0xF0, 0, 0, 0, 0, 2, [7], 0⟩ : MsgRecord).length ∧
    (0xF4#8 ∉ [0x08#8, 0x09#8, 0x0A#8, 0x0B#8, 0x0C#8, 0x0D#8, 0x0E#8, 0xF0#8, 0xF1#8, 0xF2#8, 0xF3#8, 0xF6#8] ++
      [0xF8#8, 0xFA#8, 0xFB#8, 0xFC#8, 0xFE#8, 0xFF#8]) := by decide

/-- A kind outside each range of `EncIgnoresUnusedFields`, next to it. -/
theorem witness_EncIgnoresUnusedFields :
    0x07#8 < 0x08#8 ∧ 0x0E#8 < 0x0F#8 ∧ (0x0E#8 < 0xF2#8 ∧ 0xF2#8 ≠ 0xF1#8 ∧ 0xF2#8 ≠ 0xF3#8) ∧
    (0x0C#8 ∉ [0x08#8, 0x09#8, 0x0A#8, 0x0B#8, 0x0E#8]) ∧ 0xF1#8 ≠ 0xF2#8 ∧ 0xF1#8 ≠ 0xF0#8 := by decide

theorem witness_EncodedLength :
    (next? (exec (.encMsg ⟨0x0C, 5, 7, 9, 0, 0, [], 0⟩) (machine 4 idle))).map State.returned =
      some ((machine 4 idle).returned ++ [⟨none, .encMsg .ok [0xC5, 0x07]⟩]) := by decide

theorem witness_RoundTrip :
    (Body.sysEx [0xF6, 0]).representable 2 ∧ (Body.songPosition 0x3FFF).representable 2 ∧ Body.clock.representable 2 := by
  simp [Body.representable]

theorem witness_ConcatenatedMessagesDecodeInOrder :
    idle.decFault = false ∧ idle.sxOpen = false ∧
      ∀ body ∈ [Body.noteOn 0 60 100, .sysEx [0xF6, 0], .clock], body.representable 2 := by
  simp [idle, Body.representable]

theorem witness_EachMessageHasOneWireForm :
    idle.mode = .idle ∧ heard (idle.arrival 4 1 [0x90, 0x3C, 0x64]) = some (.ok, [⟨.noteOn 0 60 100, 1⟩]) ∧
    ([0x90, 0x3C, 0x64] : List Byte).length ≤ (Body.noteOn 0 60 100).bytes.length := by decide

theorem witness_MtcPushStoresAndCounts :
    (((machine 4 idle).setMtc ⟨Vector.replicate 8 3, 7⟩).streams.here.mtc.count = 7) ∧
    (machine 4 idle).streams.here.mtc.count ≠ 7 := by decide

theorem witness_EightQuarterFramesInAnyOrder :
    Mtc.reset.count = 0 ∧ ([0x76, 0x61, 0x51, 0x47, 0x32, 0x2D, 0x10, 0x0A] : List Byte).Perm
      (quarterFrames ⟨1, 23, 45, 10, 3⟩) := by decide

theorem witness_RstIsDecResetThenMtcReset :
    (next? (exec .rst (machine 2 faulted))).isSome = true ∧ (next? (exec .decReset (machine 2 faulted))).isSome = true ∧
    (next? (exec .mtcReset (machine 2 faulted))).isSome = true := by decide

theorem witness_SongPositionCodecIsABijection : 0x3FFF#16 ≤ 0x3FFF#16 := by decide

theorem witness_HostSideFunctions :
    ((0 : ℚ) < 1) ∧ ((1 : ℚ) ≤ 1) ∧ (⟨0, 0, 0, 0, 3⟩ : Frame).rate = 3 := ⟨by norm_num, le_refl _, rfl⟩

end Sys2Proof.Tests
end

section
/-! PROOFS. The status-byte map: which row of `wireRows` a byte lies in (30_encoding.md R72), and `ndata` in the form of
R79's own formula. -/

namespace Sys2Proof

/-! ## The row of a byte (R72) -/

theorem filter_wireRows_of_data {b : Byte} (h : b < 0x80#8) :
    wireRows.filter (rowMatches · b) = [(0x80#8, 0x00#8)] := by
  revert b; decide

theorem filter_wireRows_of_channel {b : Byte} (h : 0x80#8 ≤ b) (h' : b < 0xF0#8) :
    wireRows.filter (rowMatches · b) = [(0xF0#8, b &&& 0xF0#8)] := by
  revert b; decide

theorem filter_wireRows_of_system {b : Byte} (h : 0xF0#8 ≤ b) :
    wireRows.filter (rowMatches · b) = [(0xFF#8, b)] := by
  revert b; decide

/-- The three classes of R72 (data bytes, channel statuses, system bytes) cover every byte. -/
theorem length_filter_wireRows (b : Byte) : (wireRows.filter (rowMatches · b)).length = 1 := by
  by_cases hData : b < 0x80#8
  · simp only [filter_wireRows_of_data hData, List.length_singleton]
  have hStatus : 0x80#8 ≤ b := BitVec.not_lt.mp hData
  by_cases hChannel : b < 0xF0#8
  · simp only [filter_wireRows_of_channel hStatus hChannel, List.length_singleton]
  · simp only [filter_wireRows_of_system (BitVec.not_lt.mp hChannel), List.length_singleton]

/-! ## The number of data bytes (R79) -/

/-- The statuses R79 gives two data bytes. -/
abbrev TakesTwoData (b : Byte) : Prop := highNibble b ∈ [0x8#4, 0x9#4, 0xA#4, 0xB#4, 0xE#4] ∨ b = 0xF2#8

/-- The statuses R79 gives one data byte. -/
abbrev TakesOneData (b : Byte) : Prop := highNibble b ∈ [0xC#4, 0xD#4] ∨ b = 0xF1#8 ∨ b = 0xF3#8

/-- R79's formula, which writes whole bytes where `ndata` compares nibbles. -/
theorem ndata_eq (b : Byte) : ndata b = if TakesTwoData b then 2 else if TakesOneData b then 1 else 0 := by
  revert b; decide

theorem not_takesOneData_of_takesTwoData {b : Byte} (h : TakesTwoData b) : ¬ TakesOneData b := by
  revert b; decide

theorem ndata_eq_two_iff (b : Byte) : ndata b = 2 ↔ TakesTwoData b := by
  rw [ndata_eq]
  split_ifs with hTwo hOne
  · exact iff_of_true rfl hTwo
  · exact iff_of_false (by decide) hTwo
  · exact iff_of_false (by decide) hTwo

theorem ndata_eq_one_iff (b : Byte) : ndata b = 1 ↔ TakesOneData b := by
  rw [ndata_eq]
  split_ifs with hTwo hOne
  · exact iff_of_false (by decide) (not_takesOneData_of_takesTwoData hTwo)
  · exact iff_of_true rfl hOne
  · exact iff_of_false (by decide) hOne

theorem ndata_le_two (b : Byte) : ndata b ≤ 2 := by
  rw [ndata_eq]
  split_ifs <;> decide

/-- Settles O3: the byte's class gives its one row (R72), R79's formula its number of data bytes. -/
theorem everyByteLiesInExactlyOneRow : Obligations.EveryByteLiesInExactlyOneRow := fun b =>
  ⟨length_filter_wireRows b, ndata_eq_two_iff b, ndata_eq_one_iff b, ndata_le_two b⟩

end Sys2Proof
end

section
/-! PROOFS. The byte a wire instruction stands for: the encoder gives back the byte `decodeWire` read (30_encoding.md R72),
and the parts of a status byte written as kind and channel (R73). -/

namespace Sys2Proof

@[simp] theorem highNibble_append (k c : Nibble) : highNibble (k ++ c) = k := by
  revert k c; decide

@[simp] theorem lowNibble_append (k c : Nibble) : lowNibble (k ++ c) = c := by
  revert k c; decide

/-- A byte is the status byte of its own two nibbles. -/
theorem channelStatus_nibbles (b : Byte) : channelStatus (highNibble b) (lowNibble b) = b := by
  revert b; decide

theorem channelStatus_lowNibble {b : Byte} {k : Nibble} (h : (highNibble b).toNat = k.toNat) :
    channelStatus k (lowNibble b) = b := by
  rw [← BitVec.eq_of_toNat_eq h, channelStatus_nibbles]

theorem dataByte_low7 {b : Byte} (h : (highNibble b).toNat < 8) : dataByte (low7 b) = b := by
  revert b; decide

/-- The system row of a low nibble is that of the byte `0xF` and the nibble. -/
theorem encode_decodeSystem (n : Nibble) (ts : Stamp) :
    encode (decodeSystem n ts) = .wire (channelStatus 0xF n) ts := by
  fin_cases n <;> rfl

/-- The row of a byte, by its high nibble: a channel status, a system byte, or a data byte; each is encoded as it came. -/
theorem encode_decodeWire (b : Byte) (ts : Stamp) : encode (decodeWire b ts) = .wire b ts := by
  unfold decodeWire
  split
  case h_1 h | h_2 h | h_3 h | h_4 h | h_5 h | h_6 h | h_7 h => rw [encode, channelStatus_lowNibble h]
  case h_8 h => rw [encode_decodeSystem, channelStatus_lowNibble h]
  case h_9 =>
    have hLt := (highNibble b).isLt
    simp only [imp_false] at *
    rw [encode, dataByte_low7 (by omega)]

end Sys2Proof
end

section
/-! PROOFS. What a byte does to a DEC that is not faulted, by mode (40_decoder.md R112): the cases of Laws/Ops.lean with the
mode known, and the step of the instruction in each. -/

namespace Sys2Proof.Machine

/-! ## DEC's actions with the mode known -/

theorem append_of_lt {cap : Nat} {d : Dec} (b : Byte) (h : d.sxLen < cap) :
    d.append cap b = ⟨{ d with sxBuf := Memory.write d.sxBuf d.sxLen b, sxLen := d.sxLen + 1 }, .ok, none⟩ := by
  simpa [h, Nat.not_le.2 h] using append_cases cap d b

theorem append_of_ge {cap : Nat} {d : Dec} (b : Byte) (h : cap ≤ d.sxLen) :
    d.append cap b = ⟨{ d with decFault := true }, .bufferOverflow, none⟩ := by
  simpa [h, Nat.not_lt.2 h] using append_cases cap d b

theorem realTime_of_not_faulted {d : Dec} (body : Option Body) (ts : Stamp) (h : d.decFault = false) :
    d.realTime body ts = ⟨d, .ok, body.map (⟨·, ts⟩)⟩ := by
  simpa [h] using realTime_cases d body ts

section
variable {cap : Nat} {d : Dec} (b : Byte) (act : Dec → DecOut)

theorem statusByte_of_open (hFault : d.decFault = false) (hOpen : d.sxOpen = true) :
    d.statusByte cap b act = d.append cap b := by
  simpa [hFault, hOpen] using statusByte_cases cap d b act

theorem statusByte_of_closed (hFault : d.decFault = false) (hOpen : d.sxOpen = false) :
    d.statusByte cap b act = act d.clearPending := by
  simpa [hFault, hOpen] using statusByte_cases cap d b act

end

theorem takeData_of_need_ne_one {d : Dec} (x : Data7) (ts : Stamp) (h : d.pendNeed ≠ 1) :
    d.takeData x ts = .ok ⟨{ d with pendD0 := x, pendHave := 1, pendNeed := 1 }, .ok, none⟩ := by
  obtain ⟨h', -⟩ | ⟨h', -⟩ | ⟨-, hTake⟩ := takeData_cases d x ts
  · exact absurd h' h
  · exact absurd h' h
  · exact hTake

theorem takeData_of_need_one {d : Dec} {x : Data7} {body : Body} (ts : Stamp) (h : d.pendNeed = 1)
    (hBody : buildBody d.pendStatus (if d.pendHave = 0 then x else d.pendD0) (if d.pendHave = 1 then x else 0) =
      some body) :
    d.takeData x ts = .ok ⟨d.clearPending, .ok, some ⟨body, ts⟩⟩ := by
  obtain ⟨-, body', hBody', hTake⟩ | ⟨-, hNone, -⟩ | ⟨h', -⟩ := takeData_cases d x ts
  · obtain rfl : body' = body := Option.some.inj (hBody'.symm.trans hBody)
    exact hTake
  · exact absurd (hNone.symm.trans hBody) (by simp)
  · exact absurd h h'

/-! ## The step of a data byte -/

section
variable {s : State} (x : Data7) (ts : Stamp) (hFault : s.streams.here.dec.decFault = false)
include hFault

theorem exec_data_of_open (hOpen : s.streams.here.dec.sxOpen = true) :
    exec (.data x ts) s = .next (s.decNext (s.streams.here.dec.append s.params.sysexCap (dataByte x))) := by
  simp [exec, execData, hFault, hOpen]

variable (hOpen : s.streams.here.dec.sxOpen = false)
include hOpen

theorem exec_data_of_idle (hNeed : s.streams.here.dec.pendNeed = 0) :
    exec (.data x ts) s = .next (s.decNext s.streams.here.dec.skip) := by
  simp [exec, execData, hFault, hOpen, hNeed]

theorem exec_data_of_pending (hNeed : s.streams.here.dec.pendNeed ≠ 0) :
    exec (.data x ts) s = s.decStep (s.streams.here.dec.takeData x ts) := by
  simp only [exec, execData, hFault, hOpen, hNeed, Bool.false_eq_true, if_false]

theorem exec_data_holds_first (hNeed : s.streams.here.dec.pendNeed = 2) :
    exec (.data x ts) s = .next ((s.setDec { s.streams.here.dec with pendD0 := x, pendHave := 1, pendNeed := 1 }).ret
      (.decByte .ok none)) := by
  rw [exec_data_of_pending x ts hFault hOpen (by simp [hNeed]), takeData_of_need_ne_one x ts (by simp [hNeed])]
  rfl

variable {body : Body} (hNeed : s.streams.here.dec.pendNeed = 1)
include hNeed

/-- The last data byte of a pending message emits what `buildBody` assembles, and clears the pending message (R142). -/
theorem exec_data_completes
    (hBody : buildBody s.streams.here.dec.pendStatus
      (if s.streams.here.dec.pendHave = 0 then x else s.streams.here.dec.pendD0)
      (if s.streams.here.dec.pendHave = 1 then x else 0) = some body) :
    exec (.data x ts) s =
      .next ((s.setDec s.streams.here.dec.clearPending).ret (.decByte .ok (some (body.toRecord ts)))) := by
  rw [exec_data_of_pending x ts hFault hOpen (by simp [hNeed]), takeData_of_need_one ts hNeed hBody]
  rfl

theorem exec_data_completes_two (hHave : s.streams.here.dec.pendHave = 1)
    (hBody : buildBody s.streams.here.dec.pendStatus s.streams.here.dec.pendD0 x = some body) :
    exec (.data x ts) s =
      .next ((s.setDec s.streams.here.dec.clearPending).ret (.decByte .ok (some (body.toRecord ts)))) :=
  exec_data_completes x ts hFault hOpen hNeed (by simpa [hHave] using hBody)

theorem exec_data_completes_one (hHave : s.streams.here.dec.pendHave = 0)
    (hBody : buildBody s.streams.here.dec.pendStatus x 0 = some body) :
    exec (.data x ts) s =
      .next ((s.setDec s.streams.here.dec.clearPending).ret (.decByte .ok (some (body.toRecord ts)))) :=
  exec_data_completes x ts hFault hOpen hNeed (by simpa [hHave] using hBody)

end

/-! ## The step of a payload byte -/

/-- An instruction that gives DEC a byte up to 0xF6 while a SysEx is open appends that byte, whatever its row is (R123,
R127): data bytes and status bytes come to the same. -/
theorem exec_appends_of_open {s : State} {i : Instr} {b : Byte} {ts : Stamp} (hByte : encode i = .wire b ts)
    (hPayload : b ≤ 0xF6#8) (hFault : s.streams.here.dec.decFault = false)
    (hOpen : s.streams.here.dec.sxOpen = true) :
    exec i s = .next (s.decNext (s.streams.here.dec.append s.params.sysexCap b)) := by
  cases i with
  | data x _ =>
    cases hByte
    exact exec_data_of_open x ts hFault hOpen
  | noteOff _ _ | noteOn _ _ | polyPressure _ _ | controlChange _ _ | programChange _ _ | channelPressure _ _
  | pitchBend _ _ | sysExStart _ | mtcQuarterFrame _ | songPosition _ | songSelect _ | reservedF4 _ | reservedF5 _
  | tuneRequest _ =>
    cases hByte
    exact congrArg (Host.Outcome.next ∘ s.decNext) (statusByte_of_open _ _ hFault hOpen)
  | sysExEnd _ | clock _ | reservedF9 _ | start _ | cont _ | stop _ | reservedFD _ | activeSense _ | reset _ =>
    cases hByte
    exact absurd hPayload (by decide)
  | decByte _ _ | decEnd | decReset | encMsg _ | mtcPush _ | mtcReset | sppEnc _ | sppDec _ _ | rst => cases hByte

/-! ## The message of a pending status -/

/-- The beat count of two data bytes as a bit concatenation, the first byte low (R130). -/
theorem beatsOf_eq_append (lsb msb : Data7) : beatsOf lsb msb = 0b00#2 ++ msb ++ lsb := by
  refine BitVec.eq_of_getLsbD_eq fun i hi => ?_
  rw [beatsOf, BitVec.getLsbD_or, BitVec.getLsbD_append, BitVec.getLsbD_append]
  by_cases hLow : i < 7
  · simp [hLow, hi]
  · have hLsb : lsb.getLsbD i = false := BitVec.getLsbD_of_ge lsb i (Nat.not_lt.1 hLow)
    simpa [hLow, hi, hLsb] using BitVec.lt_of_getLsbD

section
variable (c : Nibble) (d0 d1 : Data7)

theorem buildBody_noteOff : buildBody (0x8#4 ++ c) d0 d1 = some (.noteOff c d0 d1) := by simp [buildBody]
theorem buildBody_noteOn : buildBody (0x9#4 ++ c) d0 d1 = some (.noteOn c d0 d1) := by simp [buildBody]
theorem buildBody_polyPressure : buildBody (0xA#4 ++ c) d0 d1 = some (.polyPressure c d0 d1) := by simp [buildBody]
theorem buildBody_controlChange : buildBody (0xB#4 ++ c) d0 d1 = some (.controlChange c d0 d1) := by simp [buildBody]
theorem buildBody_programChange : buildBody (0xC#4 ++ c) d0 d1 = some (.programChange c d0) := by simp [buildBody]
theorem buildBody_channelPressure : buildBody (0xD#4 ++ c) d0 d1 = some (.channelPressure c d0) := by simp [buildBody]
theorem buildBody_pitchBend : buildBody (0xE#4 ++ c) d0 d1 = some (.pitchBend c d0 d1) := by simp [buildBody]
theorem buildBody_mtcQuarterFrame : buildBody 0xF1#8 d0 d1 = some (.mtcQuarterFrame d0) := rfl
theorem buildBody_songPosition : buildBody 0xF2#8 d0 d1 = some (.songPosition (0b00#2 ++ d1 ++ d0)) := by
  rw [← beatsOf_eq_append]
  rfl
theorem buildBody_songSelect : buildBody 0xF3#8 d0 d1 = some (.songSelect d0) := rfl

end

end Sys2Proof.Machine
end

section
/-! PROOFS. The statements on DEC's bytes and on DEC.RESET (40_decoder.md R120 to R146). -/

namespace Sys2Proof.Machine

/-- Settles O11: the byte is appended whatever its row, and the appended buffer reads as R123 says. -/
theorem payloadByteIsAppended : Obligations.PayloadByteIsAppended := by
  intro s b ts d hFault hOpen hPayload hRoom
  refine ⟨Memory.write d.sxBuf d.sxLen b, fun a => Memory.read_write .., ?_⟩
  rw [exec_appends_of_open (encode_decodeWire b ts) hPayload hFault hOpen, append_of_lt b hRoom]
  rfl

/-- Settles O12: the append that finds the buffer full is the overflow of R124. -/
theorem payloadByteOverflowsAFullBuffer : Obligations.PayloadByteOverflowsAFullBuffer := by
  intro s b ts d hFault hOpen hPayload hFull
  rw [exec_appends_of_open (encode_decodeWire b ts) hPayload hFault hOpen, append_of_ge b hFull.ge]
  rfl

/-- Settles O9: both rows are `Dec.realTime` with no message. -/
theorem reservedRealTimeBytesAreSkipped : Obligations.ReservedRealTimeBytesAreSkipped := by
  intro s ts hFault
  have hSkip : s.decNext (s.streams.here.dec.realTime none ts) = s.ret (.decByte .ok none) := by
    rw [realTime_of_not_faulted none ts hFault]
    rfl
  exact ⟨congrArg Host.Outcome.next hSkip, congrArg Host.Outcome.next hSkip⟩

/-- Settles O13: 0xF0 outside a SysEx acts by its own rule on a DEC with nothing pending. -/
theorem sysExStartOpensTheCapture : Obligations.SysExStartOpensTheCapture := by
  intro s ts d hFault hOpen
  exact congrArg (Host.Outcome.next ∘ s.decNext) (statusByte_of_closed _ _ hFault hOpen)

/-- Settles O19: each of the three bytes acts by its own rule on a DEC with nothing pending. -/
theorem tuneRequestAndReservedBytes : Obligations.TuneRequestAndReservedBytes := by
  intro s ts d hFault hOpen t
  have hRule (b : Byte) (act : Dec → DecOut) : s.decNext (d.statusByte s.params.sysexCap b act) =
      s.decNext (act d.clearPending) := congrArg s.decNext (statusByte_of_closed b act hFault hOpen)
  exact ⟨congrArg _ (hRule ..), congrArg _ (hRule ..), congrArg _ (hRule ..)⟩

/-- Settles O20: with nothing pending a data byte's rule is `Dec.skip` (R143). -/
theorem strayDataByteIsSkipped : Obligations.StrayDataByteIsSkipped := by
  intro s x ts d hFault hOpen hNeed
  exact exec_data_of_idle x ts hFault hOpen hNeed

/-- Settles O21: the first of two data bytes is held; the last completes the message `buildBody` assembles from the
pending status. -/
theorem dataByteOfAPendingMessage : Obligations.DataByteOfAPendingMessage := by
  intro s x c ts d hFault hOpen
  refine ⟨exec_data_holds_first x ts hFault hOpen, fun hNeed => ⟨fun hHave => ?_, fun hHave => ?_⟩⟩
  · have hEmits (body : Body) (hBody : buildBody d.pendStatus d.pendD0 x = some body) :=
      exec_data_completes_two x ts hFault hOpen hNeed hHave hBody
    exact ⟨fun h => hEmits (.noteOff c d.pendD0 x) (h ▸ buildBody_noteOff ..),
      fun h => hEmits (.noteOn c d.pendD0 x) (h ▸ buildBody_noteOn ..),
      fun h => hEmits (.polyPressure c d.pendD0 x) (h ▸ buildBody_polyPressure ..),
      fun h => hEmits (.controlChange c d.pendD0 x) (h ▸ buildBody_controlChange ..),
      fun h => hEmits (.pitchBend c d.pendD0 x) (h ▸ buildBody_pitchBend ..),
      fun h => hEmits (.songPosition (0b00#2 ++ x ++ d.pendD0)) (h ▸ buildBody_songPosition ..)⟩
  · have hEmits (body : Body) (hBody : buildBody d.pendStatus x 0 = some body) :=
      exec_data_completes_one x ts hFault hOpen hNeed hHave hBody
    exact ⟨fun h => hEmits (.programChange c x) (h ▸ buildBody_programChange ..),
      fun h => hEmits (.channelPressure c x) (h ▸ buildBody_channelPressure ..),
      fun h => hEmits (.mtcQuarterFrame x) (h ▸ buildBody_mtcQuarterFrame ..),
      fun h => hEmits (.songSelect x) (h ▸ buildBody_songSelect ..)⟩

/-- Settles O25: DEC.RESET writes `Dec.recover`. -/
theorem decResetClearsDec : Obligations.DecResetClearsDec := fun _ => rfl

end Sys2Proof.Machine
end

section
/-! PROOFS. ENC.MSG (41_encoder.md R170 to R191): the bytes of a message as bit concatenations, the message each kind
tag selects, and the step of the instruction; the statements on the kinds are put together from them. -/

namespace Sys2Proof

/-! ## Assembled bytes as bit concatenations -/

/-- `(kind << 4) | channel` loses no bit: its two halves are disjoint. -/
theorem channelStatus_eq_append (kind channel : Nibble) : channelStatus kind channel = kind ++ channel := by
  revert kind channel; decide

theorem dataByte_eq_append (x : Data7) : dataByte x = 0b0#1 ++ x :=
  BitVec.setWidth_eq_append (by decide)

/-- The mask 0x7F of R182 keeps exactly the seven bits that fit a data byte. -/
theorem setWidth_and_dataMask (w : BitVec 16) : (w &&& 0x7F#16).setWidth 7 = w.setWidth 7 := by
  rw [BitVec.setWidth_and]
  exact BitVec.and_allOnes

/-- `beats & 0x7F` is bits 6 to 0 (R182, 43_songpos.md R230). -/
theorem beatsLsb_eq_extractLsb' (beats : BitVec 16) : beatsLsb beats = beats.extractLsb' 0 7 := by
  rw [beatsLsb, setWidth_and_dataMask, BitVec.setWidth_eq_extractLsb' (by decide)]

/-- `(beats >> 7) & 0x7F` is bits 13 to 7: bits 15 and 14 are dropped (R182, 43_songpos.md R230). -/
theorem beatsMsb_eq_extractLsb' (beats : BitVec 16) : beatsMsb beats = beats.extractLsb' 7 7 := by
  rw [beatsMsb, setWidth_and_dataMask]
  rfl

/-! ## The message of a record, by its tag (R170) -/

section
variable {m : MsgRecord}

theorem body_of_noteOff (h : m.kind = 0x08#8) : m.body = some (.noteOff m.channel m.data0 m.data1) := by
  simp [MsgRecord.body, h]
theorem body_of_noteOn (h : m.kind = 0x09#8) : m.body = some (.noteOn m.channel m.data0 m.data1) := by
  simp [MsgRecord.body, h]
theorem body_of_polyPressure (h : m.kind = 0x0A#8) : m.body = some (.polyPressure m.channel m.data0 m.data1) := by
  simp [MsgRecord.body, h]
theorem body_of_controlChange (h : m.kind = 0x0B#8) : m.body = some (.controlChange m.channel m.data0 m.data1) := by
  simp [MsgRecord.body, h]
theorem body_of_programChange (h : m.kind = 0x0C#8) : m.body = some (.programChange m.channel m.data0) := by
  simp [MsgRecord.body, h]
theorem body_of_channelPressure (h : m.kind = 0x0D#8) : m.body = some (.channelPressure m.channel m.data0) := by
  simp [MsgRecord.body, h]
theorem body_of_pitchBend (h : m.kind = 0x0E#8) : m.body = some (.pitchBend m.channel m.data0 m.data1) := by
  simp [MsgRecord.body, h]
theorem body_of_mtcQuarterFrame (h : m.kind = 0xF1#8) : m.body = some (.mtcQuarterFrame m.data0) := by
  simp [MsgRecord.body, h]
theorem body_of_songPosition (h : m.kind = 0xF2#8) : m.body = some (.songPosition m.beats) := by
  simp [MsgRecord.body, h]
theorem body_of_songSelect (h : m.kind = 0xF3#8) : m.body = some (.songSelect m.data0) := by
  simp [MsgRecord.body, h]
theorem body_of_tuneRequest (h : m.kind = 0xF6#8) : m.body = some .tuneRequest := by simp [MsgRecord.body, h]
theorem body_of_clock (h : m.kind = 0xF8#8) : m.body = some .clock := by simp [MsgRecord.body, h]
theorem body_of_start (h : m.kind = 0xFA#8) : m.body = some .start := by simp [MsgRecord.body, h]
theorem body_of_cont (h : m.kind = 0xFB#8) : m.body = some .cont := by simp [MsgRecord.body, h]
theorem body_of_stop (h : m.kind = 0xFC#8) : m.body = some .stop := by simp [MsgRecord.body, h]
theorem body_of_activeSense (h : m.kind = 0xFE#8) : m.body = some .activeSense := by simp [MsgRecord.body, h]
theorem body_of_reset (h : m.kind = 0xFF#8) : m.body = some .reset := by simp [MsgRecord.body, h]

/-- The 18 kind tags (30_encoding.md R83). -/
def kindTags : List Byte :=
  [0x08#8, 0x09#8, 0x0A#8, 0x0B#8, 0x0C#8, 0x0D#8, 0x0E#8, 0xF0#8, 0xF1#8, 0xF2#8, 0xF3#8, 0xF6#8] ++
    [0xF8#8, 0xFA#8, 0xFB#8, 0xFC#8, 0xFE#8, 0xFF#8]

/-- Each row that gives a message compares the kind with one of the 18 tags (R191). -/
theorem body_of_unknown (h : m.kind ∉ kindTags) : m.body = none := by
  have hKind : BitVec.ofNat 8 m.kind.toNat = m.kind := by simp
  unfold MsgRecord.body
  split
  case h_19 => rfl
  all_goals next hTag => exact absurd (by rw [← hKind, hTag]; decide) h

end

end Sys2Proof

namespace Sys2Proof.Machine

/-! ## The step of ENC.MSG -/

section
variable {m : MsgRecord} (s : State)

theorem exec_encMsg_of_kind_ne (h : m.kind ≠ 0xF0#8) :
    exec (.encMsg m) s = .next (s.retShared (encResult m)) := by
  have hWf : m.wf = true := by simp [MsgRecord.wf, h]
  exact if_pos hWf

theorem exec_encMsg_of_kind {t : Byte} {body : Body} (hKind : m.kind = t) (hBody : m.body = some body)
    (hTag : t ≠ 0xF0#8 := by decide) :
    exec (.encMsg m) s = .next (s.retShared (.encMsg .ok body.bytes)) := by
  rw [exec_encMsg_of_kind_ne s (hKind ▸ hTag), encResult, hBody]

theorem exec_encMsg_of_unknown (h : m.kind ∉ kindTags) :
    exec (.encMsg m) s = .next (s.retShared (.encMsg .invalidMessage [])) := by
  have hKind : m.kind ≠ 0xF0#8 := ne_of_mem_of_not_mem (by decide) h |>.symm
  rw [exec_encMsg_of_kind_ne s hKind, encResult, body_of_unknown h]

end

/-! ## The statements on the kinds -/

/-- Settles O40: each of the seven tags selects its message, whose bytes are the status byte and the data bytes. -/
theorem encodesChannelMessages : Obligations.EncodesChannelMessages := by
  intro s m sends
  simp only [sends, ← channelStatus_eq_append, ← dataByte_eq_append]
  exact ⟨fun h => exec_encMsg_of_kind s h (body_of_noteOff h),
    fun h => exec_encMsg_of_kind s h (body_of_noteOn h),
    fun h => exec_encMsg_of_kind s h (body_of_polyPressure h),
    fun h => exec_encMsg_of_kind s h (body_of_controlChange h),
    fun h => exec_encMsg_of_kind s h (body_of_programChange h),
    fun h => exec_encMsg_of_kind s h (body_of_channelPressure h),
    fun h => exec_encMsg_of_kind s h (body_of_pitchBend h)⟩

/-- Settles O41: each of the ten tags selects its message; the masks of SongPosition are two bit fields of the beats. -/
theorem encodesSystemMessages : Obligations.EncodesSystemMessages := by
  intro s m sends
  simp only [sends, ← dataByte_eq_append, ← beatsLsb_eq_extractLsb', ← beatsMsb_eq_extractLsb']
  exact ⟨fun h => exec_encMsg_of_kind s h (body_of_mtcQuarterFrame h),
    fun h => exec_encMsg_of_kind s h (body_of_songPosition h),
    fun h => exec_encMsg_of_kind s h (body_of_songSelect h),
    fun h => exec_encMsg_of_kind s h (body_of_tuneRequest h),
    fun h => exec_encMsg_of_kind s h (body_of_clock h),
    fun h => exec_encMsg_of_kind s h (body_of_start h),
    fun h => exec_encMsg_of_kind s h (body_of_cont h),
    fun h => exec_encMsg_of_kind s h (body_of_stop h),
    fun h => exec_encMsg_of_kind s h (body_of_activeSense h),
    fun h => exec_encMsg_of_kind s h (body_of_reset h)⟩

/-- Settles O43: a tag that is none of the 18 selects no message. -/
theorem encodingAnUnknownKindIsInvalid : Obligations.EncodingAnUnknownKindIsInvalid :=
  fun s _ h => exec_encMsg_of_unknown s h

end Sys2Proof.Machine
end

section
/-! PROOFS. The SPP operations (43_songpos.md R230, R231): one step each, whose masks and shifts are bit fields. -/

namespace Sys2Proof.Machine

/-- The step of SPP.ENC (R230). -/
theorem exec_sppEnc (s : State) (beats : BitVec 16) :
    exec (.sppEnc beats) s = .next (s.retShared (.sppEnc .ok (beatsLsb beats) (beatsMsb beats))) := rfl

/-- The step of SPP.DEC (R231). -/
theorem exec_sppDec (s : State) (lsb msb : Data7) :
    exec (.sppDec lsb msb) s = .next (s.retShared (.sppDec .ok (beatsOf lsb msb))) := rfl

/-- Settles O54: the masks of SPP.ENC keep two bit fields of the beats, the shift and OR of SPP.DEC overlap in no bit. -/
theorem songPositionCodec : Obligations.SongPositionCodec := by
  intro s beats lsb msb
  constructor
  · rw [exec_sppEnc, beatsLsb_eq_extractLsb', beatsMsb_eq_extractLsb']
  · rw [exec_sppDec, beatsOf_eq_append]

end Sys2Proof.Machine
end

section
/-! PROOFS. The host-side real-valued functions (44_host_functions.md R240 to R243): the two branches of the tempo
estimator, and the frames per second of the four rate codes. -/

namespace Sys2Proof.Machine

/-! ## The tempo estimator (R240, R242) -/

section
variable (bpm : ℚ) {tPrevious tCurrent : ℚ}

theorem tempo_of_lt (h : tPrevious < tCurrent) : tempo bpm tPrevious tCurrent = 60 / ((tCurrent - tPrevious) * 24) :=
  if_pos (sub_pos.mpr h)

theorem tempo_of_le (h : tCurrent ≤ tPrevious) : tempo bpm tPrevious tCurrent = bpm :=
  if_neg (sub_nonpos.mpr h).not_gt

theorem tempo_mul_of_lt (h : tPrevious < tCurrent) :
    tempo bpm tPrevious tCurrent * ((tCurrent - tPrevious) * 24) = 60 := by
  have hInterval : (tCurrent - tPrevious) * 24 ≠ 0 := mul_ne_zero (sub_pos.mpr h).ne' (by norm_num)
  rw [tempo_of_lt bpm h, div_mul_cancel₀ _ hInterval]

end

/-! ## The frames per second (R241) -/

/-- `r` is the frames per second that R241 gives the rate code. -/
abbrev IsFps (rate : BitVec 2) (r : ℚ) : Prop :=
  rate = 0 ∧ r = 24 ∨ rate = 1 ∧ r = 25 ∨ rate = 2 ∧ r = 29.97 ∨ rate = 3 ∧ r = 30

/-- The model writes the decimal of rate code 2 as a fraction. -/
theorem fps_two : fps 2 = 29.97 :=
  calc fps 2 = 2997 / 100 := rfl
    _ = 29.97 := by norm_num

theorem isFps_fps (rate : BitVec 2) : IsFps rate (fps rate) := by
  have hCodes : rate = 0 ∨ rate = 1 ∨ rate = 2 ∨ rate = 3 := by revert rate; decide
  rcases hCodes with rfl | rfl | rfl | rfl
  · exact .inl ⟨rfl, rfl⟩
  · exact .inr (.inl ⟨rfl, rfl⟩)
  · exact .inr (.inr (.inl ⟨rfl, fps_two⟩))
  · exact .inr (.inr (.inr ⟨rfl, rfl⟩))

/-! ## The beat counts (R243) -/

theorem quarterNotes_mul_four (beats : BitVec 16) : quarterNotes beats * 4 = beats.toNat :=
  div_mul_cancel₀ _ (by norm_num)

theorem bars44_mul_sixteen (beats : BitVec 16) : bars44 beats * 16 = beats.toNat :=
  div_mul_cancel₀ _ (by norm_num)

/-- Settles O58: the tempo by the sign of the interval, the seconds of a frame by its rate code. -/
theorem hostSideFunctions : Obligations.HostSideFunctions :=
  ⟨fun bpm _ _ => tempo_mul_of_lt bpm, fun bpm _ _ => tempo_of_le bpm,
    fun f => ⟨fps f.rate, isFps_fps f.rate, rfl⟩,
    fun beats => ⟨quarterNotes_mul_four beats, bars44_mul_sixteen beats⟩⟩

end Sys2Proof.Machine
end

section
/-! PROOFS. The decoder and the encoder are inverse to each other (30_encoding.md R72, R87): the row of a byte by its
nibbles, and the operation codes the decoder refuses. -/

namespace Sys2Proof

/-! ## The wire row of an encoded instruction (R72) -/

theorem decodeWire_dataByte (d : Data7) (ts : Stamp) : decodeWire (dataByte d) ts = .data d ts := by
  have hRow : ∀ d : Data7, (highNibble (dataByte d)).toNat < 8 ∧ low7 (dataByte d) = d := by decide
  obtain ⟨hHigh, hLow⟩ := hRow d
  unfold decodeWire
  split
  case h_9 => rw [hLow]
  all_goals omega

/-- Settles O1: a channel status is decoded by its two nibbles, a data byte by its low bits, a system byte and an
operation code by the table. -/
theorem decodeInvertsEncode : Obligations.DecodeInvertsEncode := by
  intro i _
  cases i with
  | data d ts => exact congrArg Except.ok (decodeWire_dataByte d ts)
  | noteOff c ts | noteOn c ts | polyPressure c ts | controlChange c ts | programChange c ts | channelPressure c ts
  | pitchBend c ts => simp [encode, decode, channelStatus_eq_append, decodeWire]
  | sysExStart _ | mtcQuarterFrame _ | songPosition _ | songSelect _ | reservedF4 _ | reservedF5 _ | tuneRequest _
  | sysExEnd _ | clock _ | reservedF9 _ | start _ | cont _ | stop _ | reservedFD _ | activeSense _ | reset _ => rfl
  | decByte _ _ | decEnd | decReset | encMsg _ | mtcPush _ | mtcReset | sppEnc _ | sppDec _ _ | rst => rfl

/-- Settles O2: the row of a byte is encoded as the byte came. -/
theorem encodeInvertsWireDecode : Obligations.EncodeInvertsWireDecode := encode_decodeWire

/-- Settles O4: the bits of each word select its row. -/
theorem wordsOfTheTablesDecode : Obligations.WordsOfTheTablesDecode :=
  fun _ => ⟨rfl, rfl, rfl, rfl, rfl, rfl, rfl, rfl, rfl, rfl⟩

/-- The nine codes 0x1 to 0x9 each select an operation, the last row of R87's table refuses the others. -/
theorem decodeOp_eq_error_iff (code : BitVec 4) (p : OpPorts) :
    decodeOp code p = .error (.unassignedOperation code) ↔ code = 0x0#4 ∨ 0xA#4 ≤ code := by
  rw [← BitVec.toNat_inj, BitVec.le_def]
  unfold decodeOp
  split
  case h_10 =>
    have hLt := code.isLt
    simp only [true_iff, BitVec.reduceToNat, imp_false] at *
    omega
  all_goals next hCode => simp [hCode]

/-- Settles O5: an operation code is decoded by R87's table. -/
theorem unassignedCodesSelectNoOperation : Obligations.UnassignedCodesSelectNoOperation := decodeOp_eq_error_iff

end Sys2Proof
end

section
/-! PROOFS. DEC.BYTE by mode and byte (40_decoder.md R112): one equation for each of its ordered tests, one relation
that lists everything a byte can do, and the agreement of the tests with the bytes' own rows. -/

namespace Sys2Proof.Machine

/-! ## The status bytes outside a SysEx (R112 test 7) -/

theorem idleStatus_of_ndata_ne_zero (d : Dec) {b : Byte} (ts : Stamp) (h : ndata b ≠ 0) :
    d.idleStatus b ts = d.startMessage b (BitVec.ofNat 2 (ndata b)) := by
  have hByte : ∀ b : Byte, ndata b ≠ 0 →
      (b < 0xF0#8 ∧ BitVec.ofNat 2 (ndata b) = if highNibble b = 0xC#4 ∨ highNibble b = 0xD#4 then 1 else 2) ∨
      (b = 0xF1#8 ∨ b = 0xF2#8 ∨ b = 0xF3#8) := by decide
  obtain ⟨hChannel, hCount⟩ | rfl | rfl | rfl := hByte b h
  · rw [Dec.idleStatus, if_pos hChannel, hCount]
  · rfl
  · rfl
  · rfl

/-! ## The ordered tests -/

theorem terminate_of_readRun {d : Dec} {p : List Byte} (ts : Stamp) (h : Memory.readRun d.sxBuf 0 d.sxLen = some p) :
    d.terminate ts = .ok ⟨{ d with sxOpen := false, sxLen := 0 }, .ok, some ⟨.sysEx p, ts⟩⟩ := by
  rw [Dec.terminate, h]
  rfl

section
variable {cap : Nat} {d : Dec} {b : Byte} (ts : Stamp)

theorem byte_of_faulted (hFault : d.decFault = true) : d.byte cap b ts = .ok ⟨d, .bufferOverflow, none⟩ :=
  if_pos hFault

variable (hFault : d.decFault = false)
include hFault

theorem byte_of_realTime (hByte : 0xF8#8 ≤ b) :
    d.byte cap b ts = .ok ⟨d, .ok, (realTimeBody b).map (⟨·, ts⟩)⟩ := by
  rw [Dec.byte, hFault, if_neg Bool.false_ne_true, if_pos hByte, realTime_of_not_faulted _ _ hFault]

theorem byte_of_open_end (hOpen : d.sxOpen = true) : d.byte cap 0xF7#8 ts = d.terminate ts := by
  simp [Dec.byte, hFault, hOpen]

theorem byte_of_sysExEnd (hOpen : d.sxOpen = true) {p : List Byte}
    (hRun : Memory.readRun d.sxBuf 0 d.sxLen = some p) :
    d.byte cap 0xF7#8 ts = .ok ⟨{ d with sxOpen := false, sxLen := 0 }, .ok, some ⟨.sysEx p, ts⟩⟩ :=
  (byte_of_open_end ts hFault hOpen).trans (terminate_of_readRun ts hRun)

theorem byte_of_open (hOpen : d.sxOpen = true) (hByte : b < 0xF7#8) : d.byte cap b ts = .ok (d.append cap b) := by
  have hLow : ¬ 0xF8#8 ≤ b ∧ b ≠ 0xF7#8 := by constructor <;> bv_omega
  simp [Dec.byte, hFault, hOpen, hLow]

theorem byte_of_store (hOpen : d.sxOpen = true) (hByte : b < 0xF7#8) (hRoom : d.sxLen < cap) : d.byte cap b ts =
    .ok ⟨{ d with sxBuf := Memory.write d.sxBuf d.sxLen b, sxLen := d.sxLen + 1 }, .ok, none⟩ :=
  (byte_of_open ts hFault hOpen hByte).trans (congrArg _ (append_of_lt b hRoom))

theorem byte_of_overflow (hOpen : d.sxOpen = true) (hByte : b < 0xF7#8) (hFull : cap ≤ d.sxLen) :
    d.byte cap b ts = .ok ⟨{ d with decFault := true }, .bufferOverflow, none⟩ :=
  (byte_of_open ts hFault hOpen hByte).trans (congrArg _ (append_of_ge b hFull))

variable (hOpen : d.sxOpen = false)
include hOpen

theorem byte_of_pending (hByte : b < 0x80#8) (hNeed : d.pendNeed ≠ 0) :
    d.byte cap b ts = d.takeData (low7 b) ts := by
  have hLow : ¬ 0xF8#8 ≤ b := by bv_omega
  simp only [Dec.byte, hFault, hOpen, hLow, hByte, Bool.false_eq_true, false_and, if_false, true_and, if_pos hNeed]

theorem byte_of_stray (hByte : b < 0x80#8) (hNeed : d.pendNeed = 0) : d.byte cap b ts = .ok ⟨d, .ok, none⟩ := by
  have hLow : ¬ 0xF8#8 ≤ b := by bv_omega
  simp [Dec.byte, hFault, hOpen, hLow, hByte, hNeed, Dec.skip]

theorem byte_of_hold (hByte : b < 0x80#8) (hNeed : d.pendNeed ≠ 0) (hMore : d.pendNeed ≠ 1) :
    d.byte cap b ts = .ok ⟨{ d with pendD0 := low7 b, pendHave := 1, pendNeed := 1 }, .ok, none⟩ :=
  (byte_of_pending ts hFault hOpen hByte hNeed).trans (takeData_of_need_ne_one _ ts hMore)

theorem byte_of_complete {body : Body} (hByte : b < 0x80#8) (hNeed : d.pendNeed = 1)
    (hBody : buildBody d.pendStatus (if d.pendHave = 0 then low7 b else d.pendD0)
      (if d.pendHave = 1 then low7 b else 0) = some body) :
    d.byte cap b ts = .ok ⟨d.clearPending, .ok, some ⟨body, ts⟩⟩ :=
  (byte_of_pending ts hFault hOpen hByte (by simp [hNeed])).trans (takeData_of_need_one ts hNeed hBody)

theorem byte_of_status (hStatus : 0x80#8 ≤ b) (hByte : b < 0xF8#8) :
    d.byte cap b ts = .ok (d.clearPending.idleStatus b ts) := by
  have hLow : ¬ 0xF8#8 ≤ b ∧ ¬ b < 0x80#8 := by constructor <;> bv_omega
  simp [Dec.byte, hFault, hOpen, hLow]

theorem byte_of_start (h : ndata b ≠ 0) : d.byte cap b ts =
    .ok ⟨{ d with pendStatus := b, pendNeed := BitVec.ofNat 2 (ndata b), pendHave := 0 }, .ok, none⟩ := by
  have hByte : ∀ b : Byte, ndata b ≠ 0 → 0x80#8 ≤ b ∧ b < 0xF8#8 := by decide
  obtain ⟨hStatus, hLow⟩ := hByte b h
  rw [byte_of_status ts hFault hOpen hStatus hLow, idleStatus_of_ndata_ne_zero _ ts h]
  rfl

theorem byte_of_sysExStart :
    d.byte cap 0xF0#8 ts = .ok ⟨{ d with sxOpen := true, sxLen := 0, pendNeed := 0, pendHave := 0 }, .ok, none⟩ :=
  byte_of_status ts hFault hOpen (by decide) (by decide)

theorem byte_of_tuneRequest : d.byte cap 0xF6#8 ts = .ok ⟨d.clearPending, .ok, some ⟨.tuneRequest, ts⟩⟩ :=
  byte_of_status ts hFault hOpen (by decide) (by decide)

theorem byte_of_reserved (hByte : b = 0xF4#8 ∨ b = 0xF5#8 ∨ b = 0xF7#8) :
    d.byte cap b ts = .ok ⟨d.clearPending, .ok, none⟩ := by
  obtain rfl | rfl | rfl := hByte <;> exact byte_of_status ts hFault hOpen (by decide) (by decide)

end

/-! ## Everything a byte can do -/

/-- What the byte `b` does to the DEC `d`, one constructor a case: the mode, the kind of byte, and the outcome. -/
inductive ByteCase (cap : Nat) (d : Dec) (b : Byte) (ts : Stamp) : Except Fault DecOut → Prop
  | discard (hFault : d.decFault = true) : ByteCase cap d b ts (.ok ⟨d, .bufferOverflow, none⟩)
  | realTime (hFault : d.decFault = false) (hByte : 0xF8#8 ≤ b) :
      ByteCase cap d b ts (.ok ⟨d, .ok, (realTimeBody b).map (⟨·, ts⟩)⟩)
  | terminate (hFault : d.decFault = false) (hOpen : d.sxOpen = true) (hByte : b = 0xF7#8) {p : List Byte}
      (hRun : Memory.readRun d.sxBuf 0 d.sxLen = some p) :
      ByteCase cap d b ts (.ok ⟨{ d with sxOpen := false, sxLen := 0 }, .ok, some ⟨.sysEx p, ts⟩⟩)
  | unwritten (hFault : d.decFault = false) (hOpen : d.sxOpen = true) (hByte : b = 0xF7#8)
      (hRun : Memory.readRun d.sxBuf 0 d.sxLen = none) : ByteCase cap d b ts (.error .unwrittenSysExByte)
  | store (hFault : d.decFault = false) (hOpen : d.sxOpen = true) (hByte : b < 0xF7#8) (hRoom : d.sxLen < cap) :
      ByteCase cap d b ts
        (.ok ⟨{ d with sxBuf := Memory.write d.sxBuf d.sxLen b, sxLen := d.sxLen + 1 }, .ok, none⟩)
  | overflow (hFault : d.decFault = false) (hOpen : d.sxOpen = true) (hByte : b < 0xF7#8) (hFull : cap ≤ d.sxLen) :
      ByteCase cap d b ts (.ok ⟨{ d with decFault := true }, .bufferOverflow, none⟩)
  | stray (hFault : d.decFault = false) (hOpen : d.sxOpen = false) (hByte : b < 0x80#8) (hNeed : d.pendNeed = 0) :
      ByteCase cap d b ts (.ok ⟨d, .ok, none⟩)
  | hold (hFault : d.decFault = false) (hOpen : d.sxOpen = false) (hByte : b < 0x80#8) (hNeed : d.pendNeed ≠ 0)
      (hMore : d.pendNeed ≠ 1) :
      ByteCase cap d b ts (.ok ⟨{ d with pendD0 := low7 b, pendHave := 1, pendNeed := 1 }, .ok, none⟩)
  | complete (hFault : d.decFault = false) (hOpen : d.sxOpen = false) (hByte : b < 0x80#8) (hNeed : d.pendNeed = 1)
      {body : Body} (hBody : buildBody d.pendStatus (if d.pendHave = 0 then low7 b else d.pendD0)
        (if d.pendHave = 1 then low7 b else 0) = some body) :
      ByteCase cap d b ts (.ok ⟨d.clearPending, .ok, some ⟨body, ts⟩⟩)
  | outOfRange (hFault : d.decFault = false) (hOpen : d.sxOpen = false) (hByte : b < 0x80#8) (hNeed : d.pendNeed = 1)
      (hBody : buildBody d.pendStatus (if d.pendHave = 0 then low7 b else d.pendD0)
        (if d.pendHave = 1 then low7 b else 0) = none) :
      ByteCase cap d b ts (.error .pendingStatusOutOfRange)
  | start (hFault : d.decFault = false) (hOpen : d.sxOpen = false) (hByte : ndata b ≠ 0) :
      ByteCase cap d b ts
        (.ok ⟨{ d with pendStatus := b, pendNeed := BitVec.ofNat 2 (ndata b), pendHave := 0 }, .ok, none⟩)
  | openSysEx (hFault : d.decFault = false) (hOpen : d.sxOpen = false) (hByte : b = 0xF0#8) :
      ByteCase cap d b ts (.ok ⟨{ d with sxOpen := true, sxLen := 0, pendNeed := 0, pendHave := 0 }, .ok, none⟩)
  | tuneRequest (hFault : d.decFault = false) (hOpen : d.sxOpen = false) (hByte : b = 0xF6#8) :
      ByteCase cap d b ts (.ok ⟨d.clearPending, .ok, some ⟨.tuneRequest, ts⟩⟩)
  | reserved (hFault : d.decFault = false) (hOpen : d.sxOpen = false) (hByte : b = 0xF4#8 ∨ b = 0xF5#8 ∨ b = 0xF7#8) :
      ByteCase cap d b ts (.ok ⟨d.clearPending, .ok, none⟩)

section
variable (cap : Nat) {d : Dec} (b : Byte) (ts : Stamp) (hFault : d.decFault = false)
include hFault

theorem byteCase_of_open (hOpen : d.sxOpen = true) (hLow : ¬ 0xF8#8 ≤ b) : ByteCase cap d b ts (d.byte cap b ts) := by
  by_cases hEnd : b = 0xF7#8
  · subst hEnd
    rw [byte_of_open_end ts hFault hOpen]
    obtain ⟨p, hRun, hTerminate⟩ | ⟨hRun, hTerminate⟩ := terminate_cases d ts <;> rw [hTerminate]
    · exact .terminate hFault hOpen rfl hRun
    · exact .unwritten hFault hOpen rfl hRun
  · have hByte : b < 0xF7#8 := by bv_omega
    obtain hRoom | hFull := Nat.lt_or_ge d.sxLen cap
    · rw [byte_of_store ts hFault hOpen hByte hRoom]
      exact .store hFault hOpen hByte hRoom
    · rw [byte_of_overflow ts hFault hOpen hByte hFull]
      exact .overflow hFault hOpen hByte hFull

variable (hOpen : d.sxOpen = false)
include hOpen

theorem byteCase_of_data (hByte : b < 0x80#8) : ByteCase cap d b ts (d.byte cap b ts) := by
  by_cases hNeed : d.pendNeed = 0
  · rw [byte_of_stray ts hFault hOpen hByte hNeed]
    exact .stray hFault hOpen hByte hNeed
  · rw [byte_of_pending ts hFault hOpen hByte hNeed]
    obtain ⟨hLast, body, hBody, hTake⟩ | ⟨hLast, hBody, hTake⟩ | ⟨hMore, hTake⟩ := takeData_cases d (low7 b) ts <;>
      rw [hTake]
    · exact .complete hFault hOpen hByte hLast hBody
    · exact .outOfRange hFault hOpen hByte hLast hBody
    · exact .hold hFault hOpen hByte hNeed hMore

theorem byteCase_of_status (hStatus : 0x80#8 ≤ b) (hLow : ¬ 0xF8#8 ≤ b) : ByteCase cap d b ts (d.byte cap b ts) := by
  have hRows : ∀ b : Byte, 0x80#8 ≤ b → ¬ 0xF8#8 ≤ b →
      ndata b ≠ 0 ∨ b = 0xF0#8 ∨ b = 0xF6#8 ∨ b = 0xF4#8 ∨ b = 0xF5#8 ∨ b = 0xF7#8 := by decide
  obtain hData | rfl | rfl | hReserved := hRows b hStatus hLow
  · rw [byte_of_start ts hFault hOpen hData]
    exact .start hFault hOpen hData
  · rw [byte_of_sysExStart ts hFault hOpen]
    exact .openSysEx hFault hOpen rfl
  · rw [byte_of_tuneRequest ts hFault hOpen]
    exact .tuneRequest hFault hOpen rfl
  · rw [byte_of_reserved ts hFault hOpen hReserved]
    exact .reserved hFault hOpen hReserved

end

theorem byteCase (cap : Nat) (d : Dec) (b : Byte) (ts : Stamp) : ByteCase cap d b ts (d.byte cap b ts) := by
  cases hFault : d.decFault
  case true =>
    rw [byte_of_faulted ts hFault]
    exact .discard hFault
  by_cases hRealTime : 0xF8#8 ≤ b
  · rw [byte_of_realTime ts hFault hRealTime]
    exact .realTime hFault hRealTime
  cases hOpen : d.sxOpen
  case true => exact byteCase_of_open cap b ts hFault hOpen hRealTime
  by_cases hData : b < 0x80#8
  · exact byteCase_of_data cap b ts hFault hOpen hData
  · exact byteCase_of_status cap b ts hFault hOpen (BitVec.not_lt.1 hData) hRealTime

theorem byteCase_of_eq {cap : Nat} {d : Dec} {b : Byte} {ts : Stamp} {o : Except Fault DecOut}
    (h : d.byte cap b ts = o) : ByteCase cap d b ts o := h ▸ byteCase cap d b ts

/-! ## The bytes' own rows (R113 to R144) -/

section
variable (cap : Nat) (d : Dec) {b : Byte} (ts : Stamp)

/-- A status row is DEC.BYTE where its own rule is that of test 7. -/
theorem byte_eq_statusByte {act : Dec → DecOut} (hByte : 0x80#8 ≤ b ∧ b < 0xF7#8)
    (hAct : act d.clearPending = d.clearPending.idleStatus b ts) :
    d.byte cap b ts = .ok (d.statusByte cap b act) := by
  obtain ⟨hStatus, hPayload⟩ := hByte
  obtain ⟨hFault, hRow⟩ | ⟨hFault, hOpen, hRow⟩ | ⟨hFault, hOpen, hRow⟩ := statusByte_cases cap d b act <;> rw [hRow]
  · exact byte_of_faulted ts hFault
  · exact byte_of_open ts hFault hOpen hPayload
  · rw [byte_of_status ts hFault hOpen hStatus (by bv_omega), hAct]

/-- The rows of the statuses that take data bytes. -/
theorem byte_eq_startMessage {n : BitVec 2} (hByte : ndata b ≠ 0) (hCount : n = BitVec.ofNat 2 (ndata b)) :
    d.byte cap b ts = .ok (d.statusByte cap b (Dec.startMessage b n)) := by
  have hStatus : ∀ b : Byte, ndata b ≠ 0 → 0x80#8 ≤ b ∧ b < 0xF7#8 := by decide
  exact byte_eq_statusByte cap d ts (hStatus b hByte) (by rw [idleStatus_of_ndata_ne_zero _ ts hByte, hCount])

/-- The rows of the bytes from 0xF8 up. -/
theorem byte_eq_realTime (hByte : 0xF8#8 ≤ b) : d.byte cap b ts = .ok (d.realTime (realTimeBody b) ts) := by
  obtain ⟨hFault, hRow⟩ | ⟨hFault, hRow⟩ := realTime_cases d (realTimeBody b) ts <;> rw [hRow]
  · exact byte_of_faulted ts hFault
  · exact byte_of_realTime ts hFault hByte

theorem exec_data_eq_byte (x : Data7) (s : State) :
    exec (.data x ts) s = s.decStep (s.streams.here.dec.byte s.params.sysexCap (dataByte x) ts) := by
  have hByte : ∀ x : Data7, dataByte x < 0x80#8 ∧ dataByte x < 0xF7#8 ∧ low7 (dataByte x) = x := by decide
  obtain ⟨hData, hPayload, hLow⟩ := hByte x
  cases hFault : s.streams.here.dec.decFault
  case true => simp [exec, execData, hFault, byte_of_faulted, Dec.discard, Dec.raise]
  cases hOpen : s.streams.here.dec.sxOpen
  case true => rw [exec_data_of_open x ts hFault hOpen, byte_of_open ts hFault hOpen hPayload, decStep_ok]
  by_cases hNeed : s.streams.here.dec.pendNeed = 0
  · rw [exec_data_of_idle x ts hFault hOpen hNeed, byte_of_stray ts hFault hOpen hData hNeed]
    rfl
  · rw [exec_data_of_pending x ts hFault hOpen hNeed, byte_of_pending ts hFault hOpen hData hNeed, hLow]

theorem exec_sysExEnd_eq_byte (s : State) :
    exec (.sysExEnd ts) s = s.decStep (s.streams.here.dec.byte s.params.sysexCap 0xF7#8 ts) := by
  cases hFault : s.streams.here.dec.decFault
  case true => simp [exec, execSysExEnd, hFault, byte_of_faulted, Dec.discard, Dec.raise]
  cases hOpen : s.streams.here.dec.sxOpen
  case true => simp [exec, execSysExEnd, hFault, hOpen, byte_of_open_end]
  rw [byte_of_reserved ts hFault hOpen (by decide)]
  simp [exec, execSysExEnd, hFault, hOpen, Dec.skip]

end

/-- A wire instruction does with its byte what the ordered tests of DEC.BYTE do with it. -/
theorem exec_wire_eq_byte {i : Instr} {b : Byte} {ts : Stamp} (h : encode i = .wire b ts) (s : State) :
    exec i s = s.decStep (s.streams.here.dec.byte s.params.sysexCap b ts) := by
  cases i with
  | data x _ => cases h; exact exec_data_eq_byte ts x s
  | noteOff c _ | noteOn c _ | polyPressure c _ | controlChange c _ | programChange c _ | channelPressure c _
  | pitchBend c _ =>
    cases h
    exact congrArg s.decStep (byte_eq_startMessage _ _ ts (by revert c; decide) (by revert c; decide)).symm
  | mtcQuarterFrame _ | songPosition _ | songSelect _ =>
    cases h
    exact congrArg s.decStep (byte_eq_startMessage _ _ ts (by decide) (by decide)).symm
  | sysExStart _ | reservedF4 _ | reservedF5 _ | tuneRequest _ =>
    cases h
    exact congrArg s.decStep (byte_eq_statusByte _ _ ts (by decide) rfl).symm
  | sysExEnd _ => cases h; exact exec_sysExEnd_eq_byte ts s
  | clock _ | reservedF9 _ | start _ | cont _ | stop _ | reservedFD _ | activeSense _ | reset _ =>
    cases h
    rw [byte_eq_realTime _ _ ts (by decide)]
    rfl
  | decByte _ _ | decEnd | decReset | encMsg _ | mtcPush _ | mtcReset | sppEnc _ | sppDec _ _ | rst => cases h

/-- Settles O22: the row a byte decodes to is encoded as that byte, so both instructions are the ordered tests. -/
theorem decByteIsTheInstructionOfItsByte : Obligations.DecByteIsTheInstructionOfItsByte :=
  fun s b ts => (exec_wire_eq_byte (encode_decodeWire b ts) s).symm

/-! ## The statements on single bytes -/

/-- Settles O10: the first of the ordered tests. -/
theorem faultedDecoderDiscardsEveryByte : Obligations.FaultedDecoderDiscardsEveryByte := by
  intro s b ts hFault
  have hByte : exec (.decByte b ts) s = .next (s.ret (.decByte .bufferOverflow none)) :=
    congrArg s.decStep (byte_of_faulted ts hFault)
  exact ⟨decByteIsTheInstructionOfItsByte s b ts ▸ hByte, hByte⟩

/-- Settles O8: each of the six rows is `Dec.realTime` with its message. -/
theorem realTimeByteEmitsItsMessage : Obligations.RealTimeByteEmitsItsMessage := by
  intro s ts hFault
  have hEmit (body : Body) : s.decNext (s.streams.here.dec.realTime (some body) ts) =
      s.ret (.decByte .ok (some (body.toRecord ts))) := by
    rw [realTime_of_not_faulted _ ts hFault]
    rfl
  exact ⟨congrArg _ (hEmit .clock), congrArg _ (hEmit .start), congrArg _ (hEmit .cont), congrArg _ (hEmit .stop),
    congrArg _ (hEmit .activeSense), congrArg _ (hEmit .reset)⟩

/-- Settles O14: every byte up to `sx_len` was written, so the run of reads that is the payload succeeds. -/
theorem sysExEndEmitsThePayload : Obligations.SysExEndEmitsThePayload := by
  intro s ts d hFault hOpen hWritten
  obtain ⟨p, hRun⟩ := Memory.readRun_isSome (m := d.sxBuf) (a := 0) (n := d.sxLen) (by simpa using hWritten)
  obtain ⟨hLength, hRead⟩ := Memory.readRun_eq_some.1 hRun
  refine ⟨p, hLength, fun a ha => by simpa using (hRead a ha).symm, ?_⟩
  rw [exec_sysExEnd_eq_byte, byte_of_sysExEnd ts hFault hOpen hRun, ← hLength]
  rfl

/-- Settles O15: 0xF7 with no SysEx open only drops the pending message. -/
theorem straySysExEndIsSkipped : Obligations.StraySysExEndIsSkipped := by
  intro s ts d hFault hOpen
  rw [exec_sysExEnd_eq_byte, byte_of_reserved ts hFault hOpen (by decide)]
  rfl

/-- Settles O18: each of the ten rows starts the message of its byte, for `ndata` is not 0. -/
theorem statusByteStartsItsMessage : Obligations.StatusByteStartsItsMessage := by
  intro s c ts d hFault hOpen starts
  have hStart {i : Instr} {b : Byte} (n : BitVec 2) (hByte : encode i = .wire b ts) (hData : ndata b ≠ 0)
      (hCount : BitVec.ofNat 2 (ndata b) = n) : exec i s = starts b n := by
    rw [exec_wire_eq_byte hByte, byte_of_start ts hFault hOpen hData, hCount]
    rfl
  simp only [← channelStatus_eq_append]
  refine ⟨hStart 2 rfl ?_ ?_, hStart 2 rfl ?_ ?_, hStart 2 rfl ?_ ?_, hStart 2 rfl ?_ ?_, hStart 1 rfl ?_ ?_,
    hStart 1 rfl ?_ ?_, hStart 2 rfl ?_ ?_, hStart 1 rfl ?_ ?_, hStart 2 rfl ?_ ?_, hStart 1 rfl ?_ ?_⟩ <;>
  revert c <;> decide

/-- Settles O24: DEC.END writes `Dec.clearPending`. -/
theorem decEndDropsThePendingMessage : Obligations.DecEndDropsThePendingMessage := fun _ => rfl

end Sys2Proof.Machine
end

section
/-! PROOFS. What an instruction can do: one relation that lists every way to complete, the only way to fault, and from
them what each unit leaves unchanged and returns (20_memory.md R52, R58, 60_exceptions.md R250). -/

namespace Sys2Proof.Machine

/-! ## Every way to complete -/

/-- The instruction gives DEC the byte `b` with the timestamp `ts`: a wire row, or DEC.BYTE. -/
def GivesByte (i : Instr) (b : Byte) (ts : Stamp) : Prop := i = .decByte b ts ∨ encode i = .wire b ts

theorem exec_of_givesByte {i : Instr} {b : Byte} {ts : Stamp} (h : GivesByte i b ts) (s : State) :
    exec i s = s.decStep (s.streams.here.dec.byte s.params.sysexCap b ts) := by
  obtain rfl | hWire := h
  · rfl
  · exact exec_wire_eq_byte hWire s

/-- The states in which an instruction completes, one constructor an operation. -/
inductive Completes (s : State) : Instr → State → Prop
  | byte {i : Instr} {b : Byte} {ts : Stamp} {o : DecOut} (hGives : GivesByte i b ts)
      (hByte : s.streams.here.dec.byte s.params.sysexCap b ts = .ok o) : Completes s i (s.decNext o)
  | decEnd : Completes s .decEnd ((s.setDec s.streams.here.dec.clearPending).ret (.decEnd .ok))
  | decReset : Completes s .decReset ((s.setDec s.streams.here.dec.recover).ret (.decReset .ok))
  | encMsg {m : MsgRecord} (hWf : m.wf = true) : Completes s (.encMsg m) (s.retShared (encResult m))
  | mtcPush {qf : Byte} : Completes s (.mtcPush qf)
      ((s.setMtc (s.streams.here.mtc.push s.params.mtcClearOnFrame qf).1).ret
        (.mtcPush .ok (s.streams.here.mtc.push s.params.mtcClearOnFrame qf).2))
  | mtcReset : Completes s .mtcReset ((s.setMtc ⟨emptyPieces, 0⟩).ret (.mtcReset .ok))
  | sppEnc {beats : BitVec 16} :
      Completes s (.sppEnc beats) (s.retShared (.sppEnc .ok (beatsLsb beats) (beatsMsb beats)))
  | sppDec {lsb msb : Data7} : Completes s (.sppDec lsb msb) (s.retShared (.sppDec .ok (beatsOf lsb msb)))
  | rst : Completes s .rst
      (((s.setDec (s.streams.here.dec.afterRst s.streams.index)).setMtc ⟨emptyPieces, 0⟩).ret (.rst .ok))

/-- An instruction gives DEC a byte, or completes, or is an ENC.MSG that is refused. -/
theorem exec_cases (i : Instr) (s : State) :
    (∃ b ts, GivesByte i b ts) ∨ (∃ t, Completes s i t ∧ exec i s = .next t) ∨
    exec i s = .refused .malformedRecord := by
  cases i with
  | data _ _ | noteOff _ _ | noteOn _ _ | polyPressure _ _ | controlChange _ _ | programChange _ _ | channelPressure _ _
  | pitchBend _ _ | sysExStart _ | mtcQuarterFrame _ | songPosition _ | songSelect _ | reservedF4 _ | reservedF5 _
  | tuneRequest _ | sysExEnd _ | clock _ | reservedF9 _ | start _ | cont _ | stop _ | reservedFD _ | activeSense _
  | reset _ => exact .inl ⟨_, _, .inr rfl⟩
  | decByte _ _ => exact .inl ⟨_, _, .inl rfl⟩
  | encMsg m =>
    by_cases hWf : m.wf = true
    · exact .inr (.inl ⟨_, .encMsg hWf, if_pos hWf⟩)
    · exact .inr (.inr (if_neg hWf))
  | decEnd => exact .inr (.inl ⟨_, .decEnd, rfl⟩)
  | decReset => exact .inr (.inl ⟨_, .decReset, rfl⟩)
  | mtcPush _ => exact .inr (.inl ⟨_, .mtcPush, rfl⟩)
  | mtcReset => exact .inr (.inl ⟨_, .mtcReset, rfl⟩)
  | sppEnc _ => exact .inr (.inl ⟨_, .sppEnc, rfl⟩)
  | sppDec _ _ => exact .inr (.inl ⟨_, .sppDec, rfl⟩)
  | rst => exact .inr (.inl ⟨_, .rst, rfl⟩)

theorem completes_of_exec {s t : State} {i : Instr} (h : exec i s = .next t) : Completes s i t := by
  obtain ⟨b, ts, hGives⟩ | ⟨t', hCompletes, hExec⟩ | hRefused := exec_cases i s
  · rw [exec_of_givesByte hGives, decStep_eq_next] at h
    obtain ⟨o, hByte, rfl⟩ := h
    exact .byte hGives hByte
  · obtain rfl : t' = t := Host.Outcome.next.inj (hExec.symm.trans h)
    exact hCompletes
  · cases hRefused.symm.trans h

/-- Only a byte given to DEC can fault. -/
theorem byte_error_of_exec_fault {s : State} {i : Instr} {f : Fault} (h : exec i s = .fault f) :
    ∃ b ts, s.streams.here.dec.byte s.params.sysexCap b ts = .error f := by
  obtain ⟨b, ts, hGives⟩ | ⟨t', -, hExec⟩ | hRefused := exec_cases i s
  · rw [exec_of_givesByte hGives] at h
    cases hByte : s.streams.here.dec.byte s.params.sysexCap b ts with
    | error g =>
      rw [hByte, decStep_error] at h
      cases h
      exact ⟨b, ts, hByte⟩
    | ok o => cases hByte ▸ h
  · cases hExec.symm.trans h
  · cases hRefused.symm.trans h

/-! ## The instructions that give DEC a byte -/

theorem GivesByte.unitOf_eq {i : Instr} {b : Byte} {ts : Stamp} (h : GivesByte i b ts) : unitOf i = .dec := by
  obtain rfl | hWire := h
  · rfl
  · cases i <;> cases hWire <;> rfl

theorem GivesByte.onStream_eq {i : Instr} {b : Byte} {ts : Stamp} (h : GivesByte i b ts) : onStream i = true := by
  obtain rfl | hWire := h
  · rfl
  · cases i <;> cases hWire <;> rfl

theorem GivesByte.ne_decEnd {i : Instr} {b : Byte} {ts : Stamp} (h : GivesByte i b ts) : i ≠ .decEnd := by
  rintro rfl
  obtain h | h := h <;> cases h

theorem GivesByte.ne_decReset {i : Instr} {b : Byte} {ts : Stamp} (h : GivesByte i b ts) : i ≠ .decReset := by
  rintro rfl
  obtain h | h := h <;> cases h

theorem GivesByte.payloadByte_eq {i : Instr} {b : Byte} {ts : Stamp} (h : GivesByte i b ts) :
    payloadByte i = if b < 0xF7#8 then some b else none := by
  obtain rfl | hWire := h
  · rfl
  · unfold payloadByte
    split
    · cases hWire
    · next hEncode => cases hWire.symm.trans hEncode; rfl
    · next hEncode => cases hWire.symm.trans hEncode

/-! ## Frames -/

theorem Completes.onlyHere {s t : State} {i : Instr} (h : Completes s i t) : OnlyHere s t := by
  cases h <;> exact ⟨rfl, rfl, rfl, rfl⟩

/-- Settles O37: each way to complete writes one unit of the stream in use. -/
theorem unitsShareNoState : Obligations.UnitsShareNoState := by
  intro s t i h
  have hCompletes := completes_of_exec h
  refine ⟨hCompletes.onlyHere, ?_⟩
  cases hCompletes with
  | byte hGives _ => simp [hGives.unitOf_eq]
  | decEnd | decReset => exact ⟨fun _ => rfl, nofun, nofun⟩
  | mtcPush | mtcReset => exact ⟨nofun, fun _ => rfl, nofun⟩
  | encMsg _ | sppEnc | sppDec => exact ⟨nofun, nofun, fun _ => rfl⟩
  | rst => exact ⟨nofun, nofun, nofun⟩

theorem ByteCase.status {cap : Nat} {d : Dec} {b : Byte} {ts : Stamp} {o : DecOut} (h : ByteCase cap d b ts (.ok o)) :
    o.status = .ok ∧ o.dec.decFault = false ∨ o.status = .bufferOverflow ∧ o.msg = none ∧ o.dec.decFault = true := by
  cases h with
  | discard hFault => exact .inr ⟨rfl, rfl, hFault⟩
  | overflow => exact .inr ⟨rfl, rfl, rfl⟩
  | realTime hFault | terminate hFault | store hFault | stray hFault | hold hFault | complete hFault | start hFault
  | openSysEx hFault | tuneRequest hFault | reserved hFault => exact .inl ⟨rfl, hFault⟩

theorem encResult_status (m : MsgRecord) :
    (encResult m).status = .ok ∨ (encResult m).status = .invalidMessage := by
  unfold encResult
  split
  · exact .inl rfl
  · exact .inr rfl

/-- Settles O36: the result of each way to complete; a byte given to DEC and ENC.MSG are the two that can be other
than OK. -/
theorem conditionsComeOnlyFromTheirOperations : Obligations.ConditionsComeOnlyFromTheirOperations := by
  intro s t i h
  cases completes_of_exec h with
  | byte hGives hByte =>
    refine ⟨_, rfl, ?_⟩
    obtain ⟨hOk, -⟩ | ⟨hOverflow, -⟩ := (byteCase_of_eq hByte).status
    · exact .inl hOk
    · exact .inr (.inl ⟨hOverflow, hGives.unitOf_eq, hGives.ne_decEnd, hGives.ne_decReset⟩)
  | encMsg => exact ⟨_, rfl, (encResult_status _).imp id fun hInvalid => .inr ⟨hInvalid, rfl⟩⟩
  | decEnd | decReset | mtcPush | mtcReset | sppEnc | sppDec | rst => exact ⟨_, rfl, .inl rfl⟩

/-! ## The buffer -/

/-- What a byte does to the buffer: the store of a payload byte that fits, or nothing. -/
theorem ByteCase.read_sxBuf {cap : Nat} {d : Dec} {b : Byte} {ts : Stamp} {o : DecOut} (h : ByteCase cap d b ts (.ok o))
    (a : Nat) : Memory.read o.dec.sxBuf a =
      if (d.decFault = false ∧ d.sxOpen = true ∧ d.sxLen < cap ∧ b < 0xF7#8) ∧ a = d.sxLen then some b
      else Memory.read d.sxBuf a := by
  cases h with
  | store hFault hOpen hByte hRoom => simp [Memory.read_write, hFault, hOpen, hByte, hRoom]
  | discard hFault => simp [hFault]
  | realTime _ hByte =>
    have hHigh : ¬ b < 0xF7#8 := by bv_omega
    simp [hHigh]
  | terminate _ _ hByte => simp [hByte]
  | overflow _ _ _ hFull => simp [Nat.not_lt.2 hFull]
  | stray _ hOpen | hold _ hOpen | complete _ hOpen | start _ hOpen | openSysEx _ hOpen | tuneRequest _ hOpen
  | reserved _ hOpen => simp [hOpen]

theorem GivesByte.storeAddress_eq {i : Instr} {b : Byte} {ts : Stamp} (h : GivesByte i b ts) (s : State) :
    storeAddress i s = if s.streams.here.dec.decFault = false ∧ s.streams.here.dec.sxOpen = true ∧
      s.streams.here.dec.sxLen < s.params.sysexCap ∧ b < 0xF7#8 then some s.streams.here.dec.sxLen else none := by
  have hSome : (payloadByte i).isSome = true ↔ b < 0xF7#8 := by
    rw [h.payloadByte_eq]
    split <;> simp [*]
  simp only [storeAddress, hSome]

theorem storeAddress_of_no_payload {i : Instr} (s : State) (h : payloadByte i = none) : storeAddress i s = none := by
  simp [storeAddress, h]

/-- Settles O38: a byte given to DEC stores as `ByteCase.read_sxBuf` says, every other instruction stores nothing. -/
theorem onlyTheAppendWritesTheBuffer : Obligations.OnlyTheAppendWritesTheBuffer := by
  intro s t i hRst h
  cases completes_of_exec h with
  | byte hGives hByte =>
    rw [hGives.storeAddress_eq, hGives.payloadByte_eq]
    simp only [decNext_dec, (byteCase_of_eq hByte).read_sxBuf]
    constructor
    · intro a ha
      rw [if_neg]
      rintro ⟨hStore, rfl⟩
      exact ha (if_pos hStore)
    · intro a ha
      split at ha
      · next hStore =>
        obtain ⟨hFault, hOpen, hRoom, hPayload⟩ := hStore
        cases ha
        simp [hFault, hOpen, hRoom, hPayload]
      · cases ha
  | rst => exact absurd rfl hRst
  | decEnd | decReset | encMsg | mtcPush | mtcReset | sppEnc | sppDec =>
    rw [storeAddress_of_no_payload s rfl]
    exact ⟨fun _ _ => rfl, fun _ ha => nomatch ha⟩

end Sys2Proof.Machine
end

section
/-! PROOFS. The beat count of SPP and SongPosition as 14 bits (43_songpos.md R232). -/

namespace Sys2Proof

/-- A beat count of two data bytes is their 14 bits, zero-extended. -/
theorem beatsOf_eq_setWidth (lsb msb : Data7) : beatsOf lsb msb = (msb ++ lsb).setWidth 16 := by
  rw [Machine.beatsOf_eq_append, BitVec.setWidth_eq_append (by decide), BitVec.append_assoc]

theorem beatsOf_le (lsb msb : Data7) : beatsOf lsb msb ≤ 0x3FFF#16 := by
  rw [beatsOf_eq_setWidth, BitVec.le_def, BitVec.toNat_setWidth_of_le (by decide)]
  exact Nat.le_of_lt_succ (msb ++ lsb).isLt

@[simp] theorem beatsLsb_beatsOf (lsb msb : Data7) : beatsLsb (beatsOf lsb msb) = lsb := by
  rw [beatsLsb_eq_extractLsb', Machine.beatsOf_eq_append]
  exact BitVec.extractLsb'_append_eq_right

@[simp] theorem beatsMsb_beatsOf (lsb msb : Data7) : beatsMsb (beatsOf lsb msb) = msb := by
  rw [beatsMsb_eq_extractLsb', Machine.beatsOf_eq_append, BitVec.extractLsb'_append_eq_of_le (by decide)]
  exact BitVec.extractLsb'_append_eq_right

/-- Encoding keeps bits 13 to 0. -/
theorem beatsOf_beatsLsb_beatsMsb (beats : BitVec 16) :
    beatsOf (beatsLsb beats) (beatsMsb beats) = beats &&& 0x3FFF#16 := by
  have hBits : beatsMsb beats ++ beatsLsb beats = beats.extractLsb' 0 14 := by
    rw [beatsLsb_eq_extractLsb', beatsMsb_eq_extractLsb']
    exact BitVec.extractLsb'_append_extractLsb'_eq_extractLsb' rfl
  refine BitVec.eq_of_toNat_eq ?_
  rw [beatsOf_eq_setWidth, hBits, BitVec.toNat_and, BitVec.toNat_setWidth_of_le (by decide), BitVec.extractLsb'_toNat]
  exact (Nat.and_two_pow_sub_one_eq_mod beats.toNat 14).symm

theorem beatsOf_of_le {beats : BitVec 16} (h : beats ≤ 0x3FFF#16) :
    beatsOf (beatsLsb beats) (beatsMsb beats) = beats := by
  refine BitVec.eq_of_toNat_eq ?_
  rw [beatsOf_beatsLsb_beatsMsb, BitVec.toNat_and]
  exact (Nat.and_two_pow_sub_one_eq_mod beats.toNat 14).trans (Nat.mod_eq_of_lt (Nat.lt_succ_of_le h))

/-- Settles O55: both directions keep the 14 bits. -/
theorem songPositionCodecIsABijection : Obligations.SongPositionCodecIsABijection :=
  ⟨beatsOf_beatsLsb_beatsMsb, fun _ => beatsOf_of_le,
    fun lsb msb => ⟨beatsLsb_beatsOf lsb msb, beatsMsb_beatsOf lsb msb, beatsOf_le lsb msb⟩⟩

end Sys2Proof
end

section
/-! PROOFS. The invariant (10_state.md R26): every byte keeps it and completes under it, so every step does; and what it
gives the messages DEC emits (30_encoding.md R82). -/

namespace Sys2Proof.Machine

/-! ## The message a pending status starts -/

/-- A status has no message to build exactly where it takes no data bytes. -/
theorem buildBody_eq_none_iff {s : Byte} {d0 d1 : Data7} : buildBody s d0 d1 = none ↔ ndata s = 0 := by
  unfold buildBody ndata
  split
  case h_8 => split <;> simp_all
  all_goals simp_all

/-- The only bound a message of two data bytes could break is that of the beats. -/
theorem representable_of_buildBody {cap : Nat} {s : Byte} {d0 d1 : Data7} {body : Body}
    (h : buildBody s d0 d1 = some body) : body.representable cap := by
  unfold buildBody at h
  split at h
  case h_8 =>
    split at h <;> cases h
    · trivial
    · exact beatsOf_le d0 d1
    · trivial
  all_goals cases h
  all_goals trivial

/-! ## DECs that meet the invariant -/

section
variable {cap : Nat} {d : Dec}

/-- With no payload byte held, nothing pending and no fault, only the buffer's form is left of the invariant. -/
theorem inv_of_len_zero (hLen : d.sxLen = 0) (hFault : d.decFault = false) (hNeed : d.pendNeed = 0)
    (hHave : d.pendHave = 0) (hWf : Memory.wf d.sxBuf = true) (hBytes : ∀ c ∈ d.sxBuf, c.1 < cap ∧ c.2 < 0xF7#8) :
    d.Inv cap where
  closedEmpty _ := hLen
  lenLeCap := hLen ▸ Nat.zero_le cap
  openNothingPending _ := hNeed
  nonePendingNoneHeld _ := hHave
  pendingCount h := absurd hNeed h
  faultFull h := by simp [hFault] at h
  bufWf := hWf
  bufPrefix a ha := by simp [hLen] at ha
  bufBytes := hBytes

theorem reset_inv (k : Nat) : (Dec.reset k).Inv cap := inv_of_len_zero rfl rfl rfl rfl rfl nofun

theorem afterRst_inv (k : Nat) : (d.afterRst k).Inv cap := inv_of_len_zero rfl rfl rfl rfl rfl nofun

variable (hInv : d.Inv cap)
include hInv

theorem recover_inv : d.recover.Inv cap := inv_of_len_zero rfl rfl rfl rfl hInv.bufWf hInv.bufBytes

theorem clearPending_inv : d.clearPending.Inv cap :=
  { hInv with
    openNothingPending := fun _ => rfl
    nonePendingNoneHeld := fun _ => rfl
    pendingCount := fun h => absurd rfl h }

/-- Storing a payload byte that fits, at `sx_len`. -/
theorem store_inv {b : Byte} (hOpen : d.sxOpen = true) (hFault : d.decFault = false) (hByte : b < 0xF7#8)
    (hRoom : d.sxLen < cap) :
    ({ d with sxBuf := Memory.write d.sxBuf d.sxLen b, sxLen := d.sxLen + 1 } : Dec).Inv cap :=
  { hInv with
    closedEmpty := fun h => by simp [hOpen] at h
    lenLeCap := hRoom
    faultFull := fun h => by simp [hFault] at h
    bufWf := Memory.write_wf _ _ hInv.bufWf
    bufPrefix := fun a ha => by
      rw [Memory.read_write]
      split
      · rfl
      · exact hInv.bufPrefix a (by simp only at ha; omega)
    bufBytes := fun c hc => by
      obtain rfl | hOld := Memory.mem_write hc
      · exact ⟨hRoom, hByte⟩
      · exact hInv.bufBytes c hOld }

/-- Holding the first of two data bytes. -/
theorem hold_inv (x : Data7) (hOpen : d.sxOpen = false) (hNeed : d.pendNeed ≠ 0) (hMore : d.pendNeed ≠ 1) :
    ({ d with pendD0 := x, pendHave := 1, pendNeed := 1 } : Dec).Inv cap :=
  { hInv with
    openNothingPending := fun h => by simp [hOpen] at h
    nonePendingNoneHeld := fun h => by simp at h
    pendingCount := fun _ => by
      have hCount := hInv.pendingCount hNeed
      have hLe := ndata_le_two d.pendStatus
      have hTwo : 2 ≤ d.pendNeed.toNat := by bv_omega
      show 2 = ndata d.pendStatus
      omega }

/-- Starting the message of a status that takes data bytes. -/
theorem start_inv {b : Byte} (hOpen : d.sxOpen = false) :
    ({ d with pendStatus := b, pendNeed := BitVec.ofNat 2 (ndata b), pendHave := 0 } : Dec).Inv cap :=
  { hInv with
    openNothingPending := fun h => by simp [hOpen] at h
    nonePendingNoneHeld := fun _ => rfl
    pendingCount := fun _ => by
      have hLe := ndata_le_two b
      show ndata b % 4 + 0 = ndata b
      omega }

end

theorem ByteCase.inv {cap : Nat} {d : Dec} {b : Byte} {ts : Stamp} {o : DecOut} (hInv : d.Inv cap)
    (h : ByteCase cap d b ts (.ok o)) : o.dec.Inv cap := by
  cases h with
  | discard | realTime | stray => exact hInv
  | terminate hFault hOpen _ _ =>
    have hNeed := hInv.openNothingPending hOpen
    exact inv_of_len_zero rfl hFault hNeed (hInv.nonePendingNoneHeld hNeed) hInv.bufWf hInv.bufBytes
  | store hFault hOpen hByte hRoom => exact store_inv hInv hOpen hFault hByte hRoom
  | overflow _ hOpen _ hFull =>
    exact { hInv with faultFull := fun _ => ⟨hOpen, Nat.le_antisymm hInv.lenLeCap hFull⟩ }
  | hold _ hOpen _ hNeed hMore => exact hold_inv hInv _ hOpen hNeed hMore
  | start _ hOpen _ => exact start_inv hInv hOpen
  | openSysEx hFault => exact inv_of_len_zero rfl hFault rfl rfl hInv.bufWf hInv.bufBytes
  | complete | tuneRequest | reserved => exact clearPending_inv hInv

/-- Under the invariant every byte up to `sx_len` was written and the pending status takes data bytes. -/
theorem byte_completes {cap : Nat} {d : Dec} (hInv : d.Inv cap) (b : Byte) (ts : Stamp) :
    ∃ o, d.byte cap b ts = .ok o := by
  cases hByte : d.byte cap b ts with
  | ok o => exact ⟨o, rfl⟩
  | error f =>
    cases byteCase_of_eq hByte with
    | unwritten _ _ _ hRun =>
      obtain ⟨p, hSome⟩ := Memory.readRun_isSome (m := d.sxBuf) (a := 0) (n := d.sxLen) (by simpa using hInv.bufPrefix)
      cases hSome.symm.trans hRun
    | outOfRange _ _ _ hNeed hBody =>
      have hCount := hInv.pendingCount (by simp [hNeed])
      exact absurd (buildBody_eq_none_iff.1 hBody) (by simp [← hCount, hNeed])

/-- Settles O23: under the invariant no byte faults, and each case keeps the invariant. -/
theorem decByteCompletes : Obligations.DecByteCompletes := by
  intro s b ts hInv
  obtain ⟨o, hByte⟩ := byte_completes hInv b ts
  have hCase := byteCase_of_eq hByte
  exact ⟨o, congrArg s.decStep hByte, hCase.inv hInv, hCase.status⟩

/-! ## The port in use (60_exceptions.md R264) -/

theorem accept_of_shared {i : Instr} (s : State) (k : Nat) (h : onStream i = false) : s.accept i k = some s := by
  simp [State.accept, h]

theorem accept_eq_some_of_onStream {s t : State} {i : Instr} {k : Nat} (h : onStream i = true) :
    s.accept i k = some t ↔ ∃ z, s.streams.focus k = some z ∧ t = { s with streams := z } := by
  simp only [State.accept, h, if_true]
  split <;> simp [*, eq_comm]

theorem accept_eq_none {s : State} {i : Instr} {k : Nat} :
    s.accept i k = none ↔ onStream i = true ∧ s.streams.all.length ≤ k := by
  cases h : onStream i
  · simp [accept_of_shared s k h]
  · simp only [State.accept, h, if_true, true_and, ← focus_eq_none]
    split <;> simp [*]

/-! ## The invariant of the machine -/

/-- Settles O31: every DEC is in its reset state, and the capacity is a number plus 1. -/
theorem invariantHoldsAtReset : Obligations.InvariantHoldsAtReset where
  capPos := Nat.le_add_left 1 _
  streams := by
    intro x hx
    simp only [State.reset, Streams.all, List.nil_append, List.mem_cons, List.mem_map] at hx
    obtain rfl | ⟨k, -, rfl⟩ := hx <;> exact reset_inv _

theorem Completes.dec_inv {s t : State} {i : Instr} (h : Completes s i t)
    (hInv : s.streams.here.dec.Inv s.params.sysexCap) : t.streams.here.dec.Inv s.params.sysexCap := by
  cases h with
  | byte _ hByte => exact (byteCase_of_eq hByte).inv hInv
  | decEnd => exact clearPending_inv hInv
  | decReset => exact recover_inv hInv
  | rst => exact afterRst_inv _
  | encMsg | mtcPush | mtcReset | sppEnc | sppDec => exact hInv

theorem State.Inv.here {s : State} (hInv : s.Inv) : s.streams.here.dec.Inv s.params.sysexCap :=
  hInv.streams _ (by simp [Streams.all])

theorem Completes.inv {s t : State} {i : Instr} (h : Completes s i t) (hInv : s.Inv) : t.Inv := by
  have hFrame := h.onlyHere
  have hHere := h.dec_inv hInv.here
  refine ⟨hFrame.params ▸ hInv.capPos, fun x hx => ?_⟩
  rw [hFrame.params]
  simp only [Streams.all, hFrame.before, hFrame.after, List.mem_append, List.mem_cons] at hx
  obtain hBefore | rfl | hAfter := hx
  · exact hInv.streams x (by simp [Streams.all, hBefore])
  · exact hHere
  · exact hInv.streams x (by simp [Streams.all, hAfter])

/-- Taking the oldest command and using its port changes no stream. -/
theorem accept_inv {s t : State} {i : Instr} {k : Nat} {rest : List Command}
    (h : State.accept { s with input := rest } i k = some t) (hInv : s.Inv) : t.Inv := by
  cases hStream : onStream i
  case false =>
    rw [accept_of_shared _ k hStream] at h
    cases h
    exact ⟨hInv.capPos, hInv.streams⟩
  case true =>
    obtain ⟨z, hFocus, rfl⟩ := (accept_eq_some_of_onStream hStream).1 h
    obtain ⟨hAll, -⟩ := focus_eq_some.1 hFocus
    exact ⟨hInv.capPos, fun x hx => hInv.streams x (hAll ▸ hx)⟩

/-- Settles O32: a step that answers a next state holds the state or completes an instruction, which keeps the
invariant; DEC.END clears the pending message. -/
theorem everyStepKeepsTheInvariant : Obligations.EveryStepKeepsTheInvariant := by
  constructor
  · intro s t hInv h
    obtain ⟨-, hStep⟩ | ⟨c, rest, e, -, -, hStep⟩ | ⟨c, rest, i, -, -, ⟨-, hStep⟩ | ⟨u, hAccept, hStep⟩⟩ :=
      step_cases s <;> rw [hStep] at h
    · cases h; exact hInv
    · cases h
    · cases h
    · exact (completes_of_exec h).inv (accept_inv hAccept hInv)
  · rintro s t ⟨⟩
    rfl

/-- Settles O33: a step faults where it finds no such stream, or where a byte faults, which the invariant rules out. -/
theorem invariantRulesOutFaults : Obligations.InvariantRulesOutFaults := by
  intro s hInv f h
  obtain ⟨-, hStep⟩ | ⟨c, rest, e, -, -, hStep⟩ | ⟨c, rest, i, -, -, ⟨hAccept, hStep⟩ | ⟨u, hAccept, hStep⟩⟩ :=
    step_cases s <;> rw [hStep] at h
  · cases h
  · cases h
  · cases h
    exact ⟨c.stream, rfl, (accept_eq_none.1 hAccept).2⟩
  · obtain ⟨b, ts, hByte⟩ := byte_error_of_exec_fault h
    obtain ⟨o, hOk⟩ := byte_completes (accept_inv hAccept hInv).here b ts
    cases hOk.symm.trans hByte

/-- Settles O34: `LENW` is the number of binary digits of the capacity. -/
theorem lengthFitsItsWidth : Obligations.LengthFitsItsWidth := by
  intro cap d hInv
  have hLen := hInv.lenLeCap
  unfold Config.lenw
  split
  · next hZero => exact ⟨by simp; omega, fun w _ => Nat.zero_le w⟩
  · next hPos =>
    exact ⟨Nat.lt_of_le_of_lt hLen Nat.lt_log2_self, fun w hFits => (Nat.log2_lt hPos).2 (hFits cap le_rfl)⟩

end Sys2Proof.Machine
end

section
/-! PROOFS. DEC's modes and their transitions (40_decoder.md R149). -/

namespace Sys2Proof.Machine

/-! ## The mode as conditions on the registers -/

theorem mode_eq_fault_iff {d : Dec} : d.mode = .fault ↔ d.decFault = true := by
  unfold Dec.mode
  split_ifs <;> simp [*]

theorem mode_eq_sysEx_iff {d : Dec} : d.mode = .sysEx ↔ d.decFault = false ∧ d.sxOpen = true := by
  unfold Dec.mode
  split_ifs <;> simp [*]

theorem mode_eq_idle_iff {d : Dec} : d.mode = .idle ↔ d.decFault = false ∧ d.sxOpen = false ∧ d.pendNeed = 0 := by
  unfold Dec.mode
  split_ifs <;> simp_all

theorem mode_eq_pend_iff {d : Dec} : d.mode = .pend ↔ d.decFault = false ∧ d.sxOpen = false ∧ d.pendNeed ≠ 0 := by
  unfold Dec.mode
  split_ifs <;> simp_all

theorem mode_clearPending (d : Dec) : d.clearPending.mode = if d.mode = .pend then .idle else d.mode := by
  unfold Dec.mode
  simp only [clearPending_decFault, clearPending_sxOpen, clearPending_pendNeed]
  split_ifs <;> simp_all

theorem mode_clearPending_of_closed {d : Dec} (hFault : d.decFault = false) (hOpen : d.sxOpen = false) :
    d.clearPending.mode = .idle := mode_eq_idle_iff.2 ⟨hFault, hOpen, rfl⟩

/-! ## The transitions -/

section
variable {cap : Nat} {d : Dec} {b : Byte} {ts : Stamp} {o : DecOut} (h : d.byte cap b ts = .ok o)
include h

theorem eq_of_byte {x : DecOut} (hx : d.byte cap b ts = .ok x) : o = x := Except.ok.inj (h.symm.trans hx)

theorem mode_after_realTime (hFault : d.decFault = false) (hByte : 0xF8#8 ≤ b) :
    o.dec.mode = d.mode ∧ o.msg = (realTimeBody b).map (⟨·, ts⟩) := by
  obtain rfl := eq_of_byte h (byte_of_realTime ts hFault hByte)
  exact ⟨rfl, rfl⟩

theorem mode_after_fault (hFault : d.decFault = true) :
    o.dec.mode = .fault ∧ o.msg = none ∧ o.status = .bufferOverflow := by
  obtain rfl := eq_of_byte h (byte_of_faulted ts hFault)
  exact ⟨mode_eq_fault_iff.2 hFault, rfl, rfl⟩

theorem mode_after_status (hFault : d.decFault = false) (hOpen : d.sxOpen = false) :
    (b = 0xF0#8 → o.dec.mode = .sysEx ∧ o.msg = none) ∧
    (0x80#8 ≤ b → 1 ≤ ndata b → o.dec.mode = .pend ∧ o.msg = none) ∧
    (b = 0xF6#8 → o.dec.mode = .idle ∧ o.msg = some ⟨.tuneRequest, ts⟩) ∧
    (b = 0xF4#8 ∨ b = 0xF5#8 ∨ b = 0xF7#8 → o.dec.mode = .idle ∧ o.msg = none) := by
  refine ⟨?_, fun _ hData => ?_, ?_, fun hReserved => ?_⟩
  · rintro rfl
    obtain rfl := eq_of_byte h (byte_of_sysExStart ts hFault hOpen)
    exact ⟨mode_eq_sysEx_iff.2 ⟨hFault, rfl⟩, rfl⟩
  · obtain rfl := eq_of_byte h (byte_of_start ts hFault hOpen (by omega))
    have hLe := ndata_le_two b
    have hNeed : BitVec.ofNat 2 (ndata b) ≠ 0 := by bv_omega
    exact ⟨mode_eq_pend_iff.2 ⟨hFault, hOpen, hNeed⟩, rfl⟩
  · rintro rfl
    obtain rfl := eq_of_byte h (byte_of_tuneRequest ts hFault hOpen)
    exact ⟨mode_clearPending_of_closed hFault hOpen, rfl⟩
  · obtain rfl := eq_of_byte h (byte_of_reserved ts hFault hOpen hReserved)
    exact ⟨mode_clearPending_of_closed hFault hOpen, rfl⟩

theorem mode_after_stray (hIdle : d.mode = .idle) (hByte : b < 0x80#8) : o.dec.mode = .idle ∧ o.msg = none := by
  obtain ⟨hFault, hOpen, hNeed⟩ := mode_eq_idle_iff.1 hIdle
  obtain rfl := eq_of_byte h (byte_of_stray ts hFault hOpen hByte hNeed)
  exact ⟨hIdle, rfl⟩

theorem mode_after_data (hPend : d.mode = .pend) (hByte : b < 0x80#8) :
    (d.pendNeed = 2 → o.dec.mode = .pend ∧ o.msg = none) ∧
    (d.pendNeed = 1 → o.dec.mode = .idle ∧ o.msg.isSome = true) := by
  obtain ⟨hFault, hOpen, hNeed⟩ := mode_eq_pend_iff.1 hPend
  rw [byte_of_pending ts hFault hOpen hByte hNeed] at h
  obtain ⟨hLast, body, -, hTake⟩ | ⟨-, -, hTake⟩ | ⟨hMore, hTake⟩ := takeData_cases d (low7 b) ts <;>
    cases h.symm.trans hTake
  · exact ⟨fun hTwo => absurd (hLast.symm.trans hTwo) (by decide),
      fun _ => ⟨mode_clearPending_of_closed hFault hOpen, rfl⟩⟩
  · exact ⟨fun _ => ⟨mode_eq_pend_iff.2 ⟨hFault, hOpen, by simp⟩, rfl⟩, fun hLast => absurd hLast hMore⟩

theorem mode_after_payload (hSysEx : d.mode = .sysEx) (hByte : b ≤ 0xF6#8) :
    (d.sxLen < cap → o.dec.mode = .sysEx ∧ o.msg = none) ∧
    (d.sxLen = cap → o.dec.mode = .fault ∧ o.msg = none ∧ o.status = .bufferOverflow) := by
  obtain ⟨hFault, hOpen⟩ := mode_eq_sysEx_iff.1 hSysEx
  have hPayload : b < 0xF7#8 := by bv_omega
  constructor
  · intro hRoom
    obtain rfl := eq_of_byte h (byte_of_store ts hFault hOpen hPayload hRoom)
    exact ⟨mode_eq_sysEx_iff.2 ⟨hFault, hOpen⟩, rfl⟩
  · intro hFull
    obtain rfl := eq_of_byte h (byte_of_overflow ts hFault hOpen hPayload hFull.ge)
    exact ⟨rfl, rfl, rfl⟩

theorem mode_after_sysExEnd (hInv : d.Inv cap) (hSysEx : d.mode = .sysEx) (hByte : b = 0xF7#8) :
    o.dec.mode = .idle ∧ ∃ p, o.msg = some ⟨.sysEx p, ts⟩ := by
  obtain ⟨hFault, hOpen⟩ := mode_eq_sysEx_iff.1 hSysEx
  subst hByte
  rw [byte_of_open_end ts hFault hOpen] at h
  obtain ⟨p, -, hTerminate⟩ | ⟨-, hTerminate⟩ := terminate_cases d ts <;> cases h.symm.trans hTerminate
  exact ⟨mode_eq_idle_iff.2 ⟨hFault, rfl, hInv.openNothingPending hOpen⟩, p, rfl⟩

end

/-- Settles O26: the transitions of each mode, put together. -/
theorem modeTransitions : Obligations.ModeTransitions := by
  intro cap d b ts o hInv h
  refine ⟨fun hMode => mode_after_realTime h (by simpa [mode_eq_fault_iff] using hMode), fun hMode => ?_,
    mode_after_stray h, fun hPend hByte => (mode_after_data h hPend hByte).1,
    fun hPend hByte => (mode_after_data h hPend hByte).2, fun hSysEx hByte => (mode_after_payload h hSysEx hByte).1,
    fun hSysEx hByte => (mode_after_payload h hSysEx hByte).2, mode_after_sysExEnd h hInv,
    fun hFault => mode_after_fault h (mode_eq_fault_iff.1 hFault), mode_clearPending d, rfl⟩
  obtain hIdle | hPend := hMode
  · obtain ⟨hFault, hOpen, -⟩ := mode_eq_idle_iff.1 hIdle
    exact mode_after_status h hFault hOpen
  · obtain ⟨hFault, hOpen, -⟩ := mode_eq_pend_iff.1 hPend
    exact mode_after_status h hFault hOpen

end Sys2Proof.Machine
end

section
/-! PROOFS. What DEC emits (30_encoding.md R82, R83), and that no rule reads what the spec leaves unspecified
(10_state.md R21, R25, R38). -/

namespace Sys2Proof

/-! ## Messages as records -/

@[simp] theorem body_toRecord (body : Body) (ts : Stamp) : (body.toRecord ts).body = some body := by
  cases body <;> rfl

@[simp] theorem toRecord_timestamp (body : Body) (ts : Stamp) : (body.toRecord ts).timestamp = ts := by
  cases body <;> rfl

/-- The flat record of a representable message meets the invariants of R82. -/
theorem toRecord_invariants {cap : Nat} {body : Body} (ts : Stamp) (h : body.representable cap) :
    (body.toRecord ts).beats ≤ 0x3FFF#16 ∧ (body.toRecord ts).payload.length = (body.toRecord ts).length ∧
    (body.toRecord ts).length ≤ cap ∧ ∀ b ∈ (body.toRecord ts).payload, b < 0xF7#8 := by
  have hZero : (0 : BitVec 16) ≤ 0x3FFF#16 := by decide
  cases body with
  | sysEx p =>
    obtain ⟨hLength, hBytes⟩ := h
    exact ⟨hZero, rfl, hLength, hBytes⟩
  | songPosition beats => exact ⟨h, rfl, Nat.zero_le cap, nofun⟩
  | _ => exact ⟨hZero, rfl, Nat.zero_le cap, nofun⟩

/-- A real-time message is its own one byte. -/
theorem realTimeBody_spec {b : Byte} {body : Body} (h : realTimeBody b = some body) :
    body.isRealTime = true ∧ body.bytes = [b] := by
  unfold realTimeBody at h
  split at h
  case h_7 => cases h
  all_goals next hByte =>
    cases h
    exact ⟨rfl, congrArg ([·]) (BitVec.eq_of_toNat_eq hByte).symm⟩

theorem representable_of_isRealTime {body : Body} (cap : Nat) (h : body.isRealTime = true) :
    body.representable cap := by
  cases body <;> trivial

namespace Machine

theorem sysEx_representable {cap : Nat} {d : Dec} {p : List Byte} (hInv : d.Inv cap)
    (hRun : Memory.readRun d.sxBuf 0 d.sxLen = some p) : (Body.sysEx p).representable cap := by
  obtain ⟨hLength, hRead⟩ := Memory.readRun_eq_some.1 hRun
  refine ⟨hLength ▸ hInv.lenLeCap, fun b hb => ?_⟩
  obtain ⟨k, hk⟩ := List.mem_iff_getElem?.1 hb
  have hLt : k < d.sxLen := hLength ▸ (List.getElem?_eq_some_iff.1 hk).1
  exact (hInv.bufBytes _ (Memory.mem_of_read ((hRead k hLt).trans hk))).2

theorem ByteCase.representable {cap : Nat} {d : Dec} {b : Byte} {ts : Stamp} {o : DecOut} {m : Message}
    (hInv : d.Inv cap) (h : ByteCase cap d b ts (.ok o)) (hMsg : o.msg = some m) : m.body.representable cap := by
  cases h with
  | realTime =>
    obtain ⟨body, hBody, rfl⟩ := Option.map_eq_some_iff.1 hMsg
    exact representable_of_isRealTime cap (realTimeBody_spec hBody).1
  | terminate _ _ _ hRun => cases hMsg; exact sysEx_representable hInv hRun
  | complete _ _ _ _ hBody => cases hMsg; exact representable_of_buildBody hBody
  | tuneRequest => cases hMsg; trivial
  | discard | store | overflow | stray | hold | start | openSysEx | reserved => cases hMsg

/-- Settles O35: only a byte given to DEC returns a DEC message, and it is the record of a representable message. -/
theorem emittedMessagesKeepTheirInvariants : Obligations.EmittedMessagesKeepTheirInvariants := by
  intro s t i st m hInv h hReturned
  cases completes_of_exec h with
  | byte _ hByte =>
    simp only [decNext_returned, List.append_cancel_left_eq, List.cons.injEq, Returned.mk.injEq, Result.decByte.injEq,
      Option.map_eq_some_iff, true_and, and_true] at hReturned
    obtain ⟨-, msg, hMsg, rfl⟩ := hReturned
    obtain ⟨hBeats, hPayload, hLength, hBytes⟩ :=
      toRecord_invariants msg.timestamp ((byteCase_of_eq hByte).representable hInv hMsg)
    exact ⟨hBeats, hPayload, hLength, hBytes, msg.body, body_toRecord .., by simp [Message.toRecord]⟩
  | decEnd | decReset | encMsg | mtcPush | mtcReset | sppEnc | sppDec | rst => simp at hReturned

/-! ## Unspecified contents -/

theorem Memory.readRun_congr {m m' : Memory} {n : Nat} {p : List Byte} (h : ∀ a, a < n → read m a = read m' a)
    (hRun : readRun m 0 n = some p) : readRun m' 0 n = some p := by
  obtain ⟨hLength, hRead⟩ := readRun_eq_some.1 hRun
  exact readRun_eq_some.2 ⟨hLength, fun k hk => by rw [← hRead k hk, h _ (by omega)]⟩

section
variable {d e : Dec} (hSame : d.SameObservable e)
include hSame

theorem clearPending_sameObservable : d.clearPending.SameObservable e.clearPending :=
  { hSame with
    pendNeed := rfl
    pendHave := rfl
    pendStatus := fun h => absurd rfl h
    pendD0 := fun h => absurd rfl h }

/-- A message completed by a data byte reads only what the two agree in. -/
theorem takeData_args_eq (x : Data7) (hNeed : d.pendNeed = 1) :
    buildBody e.pendStatus (if e.pendHave = 0 then x else e.pendD0) (if e.pendHave = 1 then x else 0) =
      buildBody d.pendStatus (if d.pendHave = 0 then x else d.pendD0) (if d.pendHave = 1 then x else 0) := by
  rw [← hSame.pendHave, ← hSame.pendStatus (by simp [hNeed])]
  by_cases hHave : d.pendHave = 0
  · simp [hHave]
  · rw [hSame.pendD0 hHave]

theorem ByteCase.sameObservable {cap : Nat} {b : Byte} {ts : Stamp} {o : DecOut} (h : ByteCase cap d b ts (.ok o)) :
    ∃ o' : DecOut, e.byte cap b ts = .ok o' ∧ o'.status = o.status ∧ o'.msg = o.msg ∧ o.dec.SameObservable o'.dec := by
  have hPending := clearPending_sameObservable hSame
  have hLen := hSame.sxLen
  cases h with
  | discard hFault => exact ⟨_, byte_of_faulted ts (hSame.decFault ▸ hFault), rfl, rfl, hSame⟩
  | realTime hFault hByte => exact ⟨_, byte_of_realTime ts (hSame.decFault ▸ hFault) hByte, rfl, rfl, hSame⟩
  | terminate hFault hOpen hByte hRun =>
    subst hByte
    have hRun' := hLen ▸ Memory.readRun_congr hSame.buf hRun
    exact ⟨_, byte_of_sysExEnd ts (hSame.decFault ▸ hFault) (hSame.sxOpen ▸ hOpen) hRun', rfl, rfl,
      { hSame with sxOpen := rfl, sxLen := rfl, buf := nofun }⟩
  | store hFault hOpen hByte hRoom =>
    refine ⟨_, byte_of_store ts (hSame.decFault ▸ hFault) (hSame.sxOpen ▸ hOpen) hByte (hLen ▸ hRoom), rfl, rfl,
      { hSame with sxLen := congrArg (· + 1) hLen, buf := fun a ha => ?_ }⟩
    rw [Memory.read_write, Memory.read_write, ← hLen]
    split
    · rfl
    · exact hSame.buf a (by simp only at ha; omega)
  | overflow hFault hOpen hByte hFull =>
    exact ⟨_, byte_of_overflow ts (hSame.decFault ▸ hFault) (hSame.sxOpen ▸ hOpen) hByte (hLen ▸ hFull), rfl, rfl,
      { hSame with decFault := rfl }⟩
  | stray hFault hOpen hByte hNeed =>
    exact ⟨_, byte_of_stray ts (hSame.decFault ▸ hFault) (hSame.sxOpen ▸ hOpen) hByte (hSame.pendNeed ▸ hNeed), rfl,
      rfl, hSame⟩
  | hold hFault hOpen hByte hNeed hMore =>
    have hStatus := hSame.pendStatus hNeed
    exact ⟨_, byte_of_hold ts (hSame.decFault ▸ hFault) (hSame.sxOpen ▸ hOpen) hByte (hSame.pendNeed ▸ hNeed)
      (hSame.pendNeed ▸ hMore), rfl, rfl,
      { hSame with pendNeed := rfl, pendHave := rfl, pendStatus := fun _ => hStatus, pendD0 := fun _ => rfl }⟩
  | complete hFault hOpen hByte hNeed hBody =>
    rw [← takeData_args_eq hSame _ hNeed] at hBody
    exact ⟨_, byte_of_complete ts (hSame.decFault ▸ hFault) (hSame.sxOpen ▸ hOpen) hByte (hSame.pendNeed ▸ hNeed) hBody,
      rfl, rfl, hPending⟩
  | start hFault hOpen hByte =>
    exact ⟨_, byte_of_start ts (hSame.decFault ▸ hFault) (hSame.sxOpen ▸ hOpen) hByte, rfl, rfl,
      { hSame with pendNeed := rfl, pendHave := rfl, pendStatus := fun _ => rfl, pendD0 := fun h => absurd rfl h }⟩
  | openSysEx hFault hOpen hByte =>
    subst hByte
    exact ⟨_, byte_of_sysExStart ts (hSame.decFault ▸ hFault) (hSame.sxOpen ▸ hOpen), rfl, rfl,
      { hPending with sxOpen := rfl, sxLen := rfl, buf := nofun }⟩
  | tuneRequest hFault hOpen hByte =>
    subst hByte
    exact ⟨_, byte_of_tuneRequest ts (hSame.decFault ▸ hFault) (hSame.sxOpen ▸ hOpen), rfl, rfl, hPending⟩
  | reserved hFault hOpen hByte =>
    exact ⟨_, byte_of_reserved ts (hSame.decFault ▸ hFault) (hSame.sxOpen ▸ hOpen) hByte, rfl, rfl, hPending⟩

end

/-- Settles O30: each case of a byte reads only registers in which the two DECs agree. -/
theorem unspecifiedContentsAreUnobservable : Obligations.UnspecifiedContentsAreUnobservable :=
  fun _ _ _ _ _ _ _ hSame h => (byteCase_of_eq h).sameObservable hSame

/-! ## RST -/

/-- Settles O56: RST writes `Dec.afterRst`. -/
theorem rstEstablishesTheResetState : Obligations.RstEstablishesTheResetState :=
  fun s => ⟨s.streams.here.dec.afterRst s.streams.index, rfl, rfl, rfl, rfl, rfl, rfl⟩

/-- Of DECs with the same flags, no payload byte held and nothing pending, no rule reads anything else. -/
theorem sameObservable_afterRst_recover (k : Nat) (d : Dec) : (d.afterRst k).SameObservable d.recover where
  sxLen := rfl
  sxOpen := rfl
  decFault := rfl
  pendNeed := rfl
  pendHave := rfl
  pendStatus h := absurd rfl h
  pendD0 h := absurd rfl h
  buf _ ha := nomatch ha

/-- Settles O57: the two write the same MTC and DECs with nothing held or pending. -/
theorem rstIsDecResetThenMtcReset : Obligations.RstIsDecResetThenMtcReset := by
  rintro s t u v ⟨⟩ ⟨⟩ ⟨⟩
  exact ⟨sameObservable_afterRst_recover .., rfl, rfl, rfl, rfl⟩

end Machine

end Sys2Proof
end

section
/-! PROOFS. MTC (42_mtc.md R211 to R221): the fields of a frame, the count of pushes, and the slots after pushes in any
order. -/

namespace Sys2Proof

/-! ## The frame (R212) -/

theorem nibbleAndBit_eq_append (lo hi : Nibble) : nibbleAndBit lo hi = hi.extractLsb' 0 1 ++ lo := by
  revert lo hi; decide

theorem twoNibbles_eq_append (lo hi : Nibble) : twoNibbles lo hi = hi ++ lo := by
  revert lo hi; decide

theorem rateBits_eq_extractLsb' (n : Nibble) : ((n >>> 1) &&& 3#4).setWidth 2 = n.extractLsb' 1 2 := by
  revert n; decide

/-- Settles O50: each of R212's shifts and ORs is a concatenation of the slots' bits. -/
theorem frameFields : Obligations.FrameFields := fun p => by
  simp only [frameOf, nibbleAndBit_eq_append, twoNibbles_eq_append, rateBits_eq_extractLsb']

/-! ## The quarter-frame bytes of a timecode (R220, R221) -/

theorem nibbleAndBit_split (x : BitVec 5) :
    nibbleAndBit (x.extractLsb' 0 4) ((x.extractLsb' 4 1).setWidth 4) = x := by
  revert x; decide

theorem twoNibbles_split (x : BitVec 8) : twoNibbles (x.extractLsb' 0 4) (x.extractLsb' 4 4) = x := by
  revert x; decide

/-- Slot 7 holds the high bit of the hours beside the rate. -/
theorem nibbleAndBit_split_hours (rate : BitVec 2) (x : BitVec 5) :
    nibbleAndBit (x.extractLsb' 0 4) ((rate.setWidth 4 <<< 1) ||| (x.extractLsb' 4 1).setWidth 4) = x := by
  revert rate x; decide

theorem rate_split (rate : BitVec 2) (x : BitVec 5) :
    (((rate.setWidth 4 <<< 1 ||| (x.extractLsb' 4 1).setWidth 4) >>> 1) &&& 3#4).setWidth 2 = rate := by
  revert rate x; decide

@[simp] theorem qfSlot_quarterFrame (slot : BitVec 3) (n : Nibble) : qfSlot (quarterFrame slot n) = slot := by
  revert slot n; decide

@[simp] theorem qfNibble_quarterFrame (slot : BitVec 3) (n : Nibble) : qfNibble (quarterFrame slot n) = n := by
  revert slot n; decide

/-- The slots of a timecode's eight quarter-frame bytes are the eight slots. -/
theorem map_qfSlot_quarterFrames (f : Frame) : (quarterFrames f).map qfSlot = [0, 1, 2, 3, 4, 5, 6, 7] := by
  simp [quarterFrames]

namespace Machine

/-! ## The steps of MTC -/

section
variable {clear : Bool} {m : Mtc} (qf : Byte)

theorem push_of_count_eq_seven (h : m.count = 7) : m.push clear qf =
    (⟨if clear then emptyPieces else setPiece m.pieces (qfSlot qf) (qfNibble qf), 0⟩,
      some (frameOf (setPiece m.pieces (qfSlot qf) (qfNibble qf)))) :=
  ((push_cases clear m qf).resolve_right fun hNe => hNe.1 h).2

theorem push_of_count_ne_seven (h : m.count ≠ 7) :
    m.push clear qf = (⟨setPiece m.pieces (qfSlot qf) (qfNibble qf), m.count + 1⟩, none) :=
  ((push_cases clear m qf).resolve_left fun hEq => h hEq.1).2

end

/-- Settles O49: the push stores its nibble, and the count decides the rest. -/
theorem mtcPushStoresAndCounts : Obligations.MtcPushStoresAndCounts := by
  intro s qf m
  have hExec : exec (.mtcPush qf) s = .next ((s.setMtc (m.push s.params.mtcClearOnFrame qf).1).ret
      (.mtcPush .ok (m.push s.params.mtcClearOnFrame qf).2)) := rfl
  refine ⟨setPiece m.pieces (qfSlot qf) (qfNibble qf), fun i h => setPiece_get .., fun hCount => ?_, fun hCount => ?_⟩
  · rw [hExec, push_of_count_eq_seven qf hCount]
    rfl
  · rw [hExec, push_of_count_ne_seven qf hCount]

/-- Settles O51: MTC.RESET writes eight slots 0 and count 0. -/
theorem mtcResetEmptiesTheAccumulator : Obligations.MtcResetEmptiesTheAccumulator := fun _ => rfl

/-! ## The count (10_state.md R29) -/

/-- A push counts modulo 8 and returns a frame exactly when the count starts again. -/
theorem push_count (clear : Bool) (m : Mtc) (qf : Byte) :
    (m.push clear qf).1.count.toNat + 8 * (m.push clear qf).2.toList.length = m.count.toNat + 1 := by
  obtain ⟨hSeven, hPush⟩ | ⟨hLess, hPush⟩ := push_cases clear m qf <;> rw [hPush]
  · simp [hSeven]
  · have hLt := m.count.isLt
    simp only [Option.toList_none, List.length_nil]
    bv_omega

theorem pushes_count (clear : Bool) (m : Mtc) (l : List Byte) :
    (m.pushes clear l).1.count.toNat + 8 * ((m.pushes clear l).2.filter Option.isSome).length =
      m.count.toNat + l.length := by
  induction l generalizing m with
  | nil => simp [Mtc.pushes]
  | cons qf rest ih =>
    have hPush := push_count clear m qf
    have hRest := ih (m.push clear qf).1
    simp only [Mtc.pushes, List.filter_cons, List.length_cons]
    cases hFrame : (m.push clear qf).2 <;> simp [hFrame] at hPush ⊢ <;> omega

/-- Settles O53: the count and eight times the frames add up to the pushes. -/
theorem framesComeEveryEighthPush : Obligations.FramesComeEveryEighthPush := by
  intro clear m l
  have hCount := pushes_count clear m l
  have hLt := (m.pushes clear l).1.count.isLt
  omega

/-! ## The slots after pushes in any order (R216 (a)) -/

/-- The slots after the nibbles of several quarter-frame bytes are stored in order. -/
def storePieces (p : Vector Nibble 8) (l : List Byte) : Vector Nibble 8 :=
  l.foldl (fun p qf => setPiece p (qfSlot qf) (qfNibble qf)) p

theorem storePieces_cons (p : Vector Nibble 8) (qf : Byte) (l : List Byte) :
    storePieces p (qf :: l) = storePieces (setPiece p (qfSlot qf) (qfNibble qf)) l := rfl

/-- The pushes that bring the count to 8 return one frame, that of the stored nibbles, with the last of them. -/
theorem pushes_of_count_eight (clear : Bool) (m : Mtc) (l : List Byte) (hCount : m.count.toNat + l.length = 8) :
    (m.pushes clear l).2 = List.replicate (l.length - 1) none ++ [some (frameOf (storePieces m.pieces l))] := by
  induction l generalizing m with
  | nil =>
    have hLt := m.count.isLt
    simp at hCount
    omega
  | cons qf rest ih =>
    obtain ⟨hSeven, hPush⟩ | ⟨hLess, hPush⟩ := push_cases clear m qf
    · have hRest : rest = [] := List.eq_nil_of_length_eq_zero (by simp [hSeven] at hCount; omega)
      simp [hRest, Mtc.pushes, hPush, storePieces]
    · rw [List.length_cons] at hCount ⊢
      have hRest : rest.length = rest.length - 1 + 1 := by have hLt := m.count.isLt; bv_omega
      simp only [Mtc.pushes, hPush, storePieces_cons, Nat.add_sub_cancel]
      rw [ih _ (by simp only; bv_omega), ← List.cons_append, ← List.replicate_succ, ← hRest]

/-- A slot no byte of the list is for keeps its nibble. -/
theorem storePieces_of_not_mem {p : Vector Nibble 8} {l : List Byte} {slot : BitVec 3} (h : slot ∉ l.map qfSlot) :
    (storePieces p l)[slot.toNat] = p[slot.toNat] := by
  induction l generalizing p with
  | nil => rfl
  | cons qf rest ih =>
    rw [List.map_cons, List.mem_cons, not_or] at h
    obtain ⟨hSlot, hRest⟩ := h
    rw [storePieces_cons, ih hRest, setPiece_get, if_neg (fun hEq => hSlot (BitVec.eq_of_toNat_eq hEq.symm))]

/-- Where each slot comes once, the order does not matter: each holds the nibble of its byte. -/
theorem storePieces_of_mem {p : Vector Nibble 8} {l : List Byte} {qf : Byte} (hNodup : (l.map qfSlot).Nodup)
    (hMem : qf ∈ l) : (storePieces p l)[(qfSlot qf).toNat] = qfNibble qf := by
  induction l generalizing p with
  | nil => cases hMem
  | cons x rest ih =>
    rw [List.map_cons, List.nodup_cons] at hNodup
    obtain ⟨hHead, hRest⟩ := hNodup
    rw [storePieces_cons]
    obtain rfl | hMem := List.mem_cons.1 hMem
    · rw [storePieces_of_not_mem hHead, setPiece_get, if_pos rfl]
    · exact ih hRest hMem

theorem storePieces_quarterFrame {p : Vector Nibble 8} {l : List Byte} {slot : BitVec 3} {n : Nibble}
    (hNodup : (l.map qfSlot).Nodup) (hMem : quarterFrame slot n ∈ l) : (storePieces p l)[slot.toNat] = n := by
  simpa using storePieces_of_mem (p := p) hNodup hMem

/-- Slots that hold the nibbles of a timecode hold the timecode. -/
theorem frameOf_eq {q : Vector Nibble 8} {f : Frame}
    (h : ∀ slot n, quarterFrame slot n ∈ quarterFrames f → q[slot.toNat] = n) : frameOf q = f := by
  have h0 : q[0] = f.frames.extractLsb' 0 4 := h 0 _ (by simp [quarterFrames])
  have h1 : q[1] = (f.frames.extractLsb' 4 1).setWidth 4 := h 1 _ (by simp [quarterFrames])
  have h2 : q[2] = f.seconds.extractLsb' 0 4 := h 2 _ (by simp [quarterFrames])
  have h3 : q[3] = f.seconds.extractLsb' 4 4 := h 3 _ (by simp [quarterFrames])
  have h4 : q[4] = f.minutes.extractLsb' 0 4 := h 4 _ (by simp [quarterFrames])
  have h5 : q[5] = f.minutes.extractLsb' 4 4 := h 5 _ (by simp [quarterFrames])
  have h6 : q[6] = f.hours.extractLsb' 0 4 := h 6 _ (by simp [quarterFrames])
  have h7 : q[7] = (f.rate.setWidth 4 <<< 1) ||| (f.hours.extractLsb' 4 1).setWidth 4 := h 7 _ (by simp [quarterFrames])
  simp only [frameOf, h0, h1, h2, h3, h4, h5, h6, h7]
  simp only [nibbleAndBit_split, twoNibbles_split, nibbleAndBit_split_hours, rate_split]

theorem frameOf_storePieces (p : Vector Nibble 8) {l : List Byte} {f : Frame} (h : l.Perm (quarterFrames f)) :
    frameOf (storePieces p l) = f := by
  have hNodup : (l.map qfSlot).Nodup := (h.map qfSlot).nodup_iff.2 (by rw [map_qfSlot_quarterFrames]; decide)
  have hSlot (slot : BitVec 3) (n : Nibble) (hMem : quarterFrame slot n ∈ quarterFrames f) :
      (storePieces p l)[slot.toNat] = n := storePieces_quarterFrame hNodup (h.mem_iff.2 hMem)
  exact frameOf_eq hSlot

/-- Settles O52: eight pushes from count 0 return one frame, and the slots then hold the timecode's nibbles. -/
theorem eightQuarterFramesInAnyOrder : Obligations.EightQuarterFramesInAnyOrder := by
  intro clear m f l hCount hPerm
  have hLength : l.length = 8 := hPerm.length_eq
  constructor
  · rw [pushes_of_count_eight clear m l (by simp [hCount, hLength]), hLength, frameOf_storePieces _ hPerm]
  · have hTotal := (framesComeEveryEighthPush clear m l).1
    rw [hCount, hLength] at hTotal
    exact BitVec.eq_of_toNat_eq hTotal

end Machine

end Sys2Proof
end

section
/-! PROOFS. The wire form of a message (30_encoding.md R89, 41_encoder.md R171): which bytes it is, how its parts are
read from them, and the statements on ENC.MSG that rest on it. -/

namespace Sys2Proof

/-! ## Status bytes and data bytes -/

theorem dataByte_lt (x : Data7) : dataByte x < 0x80#8 := by
  revert x; decide

@[simp] theorem low7_dataByte (x : Data7) : low7 (dataByte x) = x := by
  revert x; decide

theorem dataByte_low7_of_lt {b : Byte} (h : b < 0x80#8) : dataByte (low7 b) = b := by
  revert b; decide

theorem status_of_ndata_ne_zero {b : Byte} (h : ndata b ≠ 0) : 0x80#8 ≤ b := by
  revert b; decide

/-! ## The wire form of a message -/

/-- The wire form of a message, one constructor a shape; in each, DEC's rule for those bytes gives the message back. -/
inductive WireForm (body : Body) : List Byte → Prop
  | realTime {b : Byte} (hByte : 0xF8#8 ≤ b) (hBody : realTimeBody b = some body) : WireForm body [b]
  | tuneRequest (hBody : body = .tuneRequest) : WireForm body [0xF6#8]
  | oneData {s : Byte} {x : Data7} (hCount : ndata s = 1) (hBody : ∀ y, buildBody s x y = some body) :
      WireForm body [s, dataByte x]
  | twoData {s : Byte} {x y : Data7} (hCount : ndata s = 2)
      (hBody : ∀ cap, body.representable cap → buildBody s x y = some body) :
      WireForm body [s, dataByte x, dataByte y]
  | sysEx {p : List Byte} (hBody : body = .sysEx p) : WireForm body (0xF0#8 :: (p ++ [0xF7#8]))

theorem wireForm_bytes (body : Body) : WireForm body body.bytes := by
  cases body with
  | noteOff c _ _ | noteOn c _ _ | polyPressure c _ _ | controlChange c _ _ | pitchBend c _ _ =>
    refine .twoData (by revert c; decide) fun _ _ => ?_
    rw [channelStatus_eq_append]
    simp [buildBody]
  | programChange c _ | channelPressure c _ =>
    refine .oneData (by revert c; decide) fun _ => ?_
    rw [channelStatus_eq_append]
    simp [buildBody]
  | mtcQuarterFrame _ | songSelect _ => exact .oneData (by decide) fun _ => rfl
  | songPosition beats =>
    refine .twoData (by decide) fun _ h => ?_
    show some (Body.songPosition (beatsOf (beatsLsb beats) (beatsMsb beats))) = _
    rw [beatsOf_of_le h]
  | sysEx p => exact .sysEx rfl
  | tuneRequest => exact .tuneRequest rfl
  | clock | start | cont | stop | activeSense | reset => exact .realTime (by decide) rfl

theorem eq_of_toNat_nibbles_eq {s b : Byte} (hHigh : (highNibble s).toNat = (highNibble b).toNat)
    (hLow : (lowNibble s).toNat = (lowNibble b).toNat) : b = s := by
  rw [← channelStatus_nibbles b, ← BitVec.eq_of_toNat_eq hHigh, ← BitVec.eq_of_toNat_eq hLow, channelStatus_nibbles]

/-- The other direction: a message built from a status and its data bytes has those bytes as its wire form. -/
theorem body_bytes_of_buildBody {s : Byte} {x y : Data7} {body : Body} (h : buildBody s x y = some body) :
    body.bytes = s :: ([x, y].take (ndata s)).map dataByte := by
  unfold buildBody at h
  split at h
  case h_8 hHigh =>
    split at h
    case h_4 => cases h
    all_goals next hLow =>
      cases h
      simp only [ndata, hHigh, hLow, Body.bytes, beatsLsb_beatsOf, beatsMsb_beatsOf]
      exact congrArg (· :: _) (eq_of_toNat_nibbles_eq hHigh hLow)
  case h_9 => cases h
  all_goals next hHigh =>
    cases h
    simp only [ndata, hHigh, Body.bytes]
    exact congrArg (· :: _) (channelStatus_lowNibble hHigh)

/-! ## ENC.MSG -/

theorem body_of_sysEx {m : MsgRecord} (h : m.kind = 0xF0#8) : m.body = some (.sysEx m.payload) := by
  simp [MsgRecord.body, h]

theorem kind_of_body_eq_sysEx {m : MsgRecord} {p : List Byte} (h : m.body = some (.sysEx p)) : m.kind = 0xF0#8 := by
  unfold MsgRecord.body at h
  split at h
  case h_8 hTag => exact BitVec.eq_of_toNat_eq hTag
  all_goals cases h

/-- A record's message reads the kind and the fields that kind uses (41_encoder.md R172). -/
theorem body_congr {m m' : MsgRecord} (hKind : m'.kind = m.kind)
    (hChannel : 0x08#8 ≤ m.kind → m.kind ≤ 0x0E#8 → m'.channel = m.channel)
    (hData0 : (0x08#8 ≤ m.kind ∧ m.kind ≤ 0x0E#8) ∨ m.kind = 0xF1#8 ∨ m.kind = 0xF3#8 → m'.data0 = m.data0)
    (hData1 : m.kind ∈ [0x08#8, 0x09#8, 0x0A#8, 0x0B#8, 0x0E#8] → m'.data1 = m.data1)
    (hBeats : m.kind = 0xF2#8 → m'.beats = m.beats) (hPayload : m.kind = 0xF0#8 → m'.payload = m.payload) :
    m'.body = m.body := by
  have hOf : m.kind = BitVec.ofNat 8 m.kind.toNat := by simp
  unfold MsgRecord.body
  rw [hKind]
  split
  case h_19 => rfl
  all_goals next hTag =>
    have hTag := hOf.trans (congrArg _ hTag)
    clear hOf
    simp_all

namespace Machine

theorem exec_encMsg_of_wf {m : MsgRecord} (s : State) (h : m.wf = true) :
    exec (.encMsg m) s = .next (s.retShared (encResult m)) := if_pos h

theorem exec_encMsg_of_not_wf {m : MsgRecord} (s : State) (h : ¬ m.wf = true) :
    exec (.encMsg m) s = .refused .malformedRecord := if_neg h

/-- Settles O42: the record is well formed and selects the SysEx of its payload. -/
theorem encodesSysEx : Obligations.EncodesSysEx := by
  intro s m hKind hLength
  rw [exec_encMsg_of_wf s (by simp [MsgRecord.wf, hLength]), encResult, body_of_sysEx hKind]
  rfl

/-- Settles O44: the record is not well formed. -/
theorem encodingAMalformedRecordIsRefused : Obligations.EncodingAMalformedRecordIsRefused :=
  fun s m hKind hLength => exec_encMsg_of_not_wf s (by simp [MsgRecord.wf, hKind, hLength])

theorem exec_encMsg_congr {m m' : MsgRecord} (s : State) (hWf : m'.wf = m.wf) (hBody : m'.body = m.body) :
    exec (.encMsg m') s = exec (.encMsg m) s := by
  simp only [exec, execEncMsg, encResult, hWf, hBody]

/-- Settles O45: the record with the field changed has the same well-formedness and selects the same message. -/
theorem encIgnoresUnusedFields : Obligations.EncIgnoresUnusedFields := by
  intro s m ts c x w n p
  refine ⟨exec_encMsg_congr s rfl rfl, fun h => ?_, fun h hF1 hF3 => ?_, fun h => ?_, fun h => ?_, fun h => ?_⟩
  · refine exec_encMsg_congr s rfl (body_congr rfl (fun hLow hHigh => ?_) ?_ ?_ ?_ ?_)
    · bv_omega
    all_goals exact fun _ => rfl
  · refine exec_encMsg_congr s rfl (body_congr rfl (fun _ _ => rfl) (fun hUsed => ?_) ?_ ?_ ?_)
    · obtain ⟨hLow, hHigh⟩ | hUsed | hUsed := hUsed
      · bv_omega
      · exact absurd hUsed hF1
      · exact absurd hUsed hF3
    all_goals exact fun _ => rfl
  · exact exec_encMsg_congr s rfl (body_congr rfl (fun _ _ => rfl) (fun _ => rfl) (fun hUsed => absurd hUsed h)
      (fun _ => rfl) fun _ => rfl)
  · exact exec_encMsg_congr s rfl (body_congr rfl (fun _ _ => rfl) (fun _ => rfl) (fun _ => rfl)
      (fun hUsed => absurd hUsed h) fun _ => rfl)
  · exact exec_encMsg_congr s (by simp [MsgRecord.wf, bne_iff_ne.2 h]) (body_congr rfl (fun _ _ => rfl) (fun _ => rfl)
      (fun _ => rfl) (fun _ => rfl) fun hUsed => absurd hUsed h)

/-- The first byte of a wire form is a status byte; the others are data bytes, as many as the status takes, where the
message is no SysEx. -/
theorem wireForm_shape {body : Body} {bytes : List Byte} (h : WireForm body bytes) :
    ∃ status rest, bytes = status :: rest ∧ 0x80#8 ≤ status ∧
      ((∃ p, body = .sysEx p ∧ bytes.length = p.length + 2) ∨
        bytes.length = 1 + ndata status ∧ ∀ b ∈ rest, b < 0x80#8) := by
  cases h with
  | realTime hByte =>
    have hFacts : ∀ b : Byte, 0xF8#8 ≤ b → 0x80#8 ≤ b ∧ ndata b = 0 := by decide
    obtain ⟨hStatus, hCount⟩ := hFacts _ hByte
    exact ⟨_, [], rfl, hStatus, .inr ⟨by simp [hCount], nofun⟩⟩
  | tuneRequest => exact ⟨_, [], rfl, by decide, .inr ⟨by decide, nofun⟩⟩
  | oneData hCount =>
    exact ⟨_, _, rfl, status_of_ndata_ne_zero (by simp [hCount]), .inr ⟨by simp [hCount], by simp [dataByte_lt]⟩⟩
  | twoData hCount =>
    exact ⟨_, _, rfl, status_of_ndata_ne_zero (by simp [hCount]), .inr ⟨by simp [hCount], by simp [dataByte_lt]⟩⟩
  | sysEx hBody => exact ⟨_, _, rfl, by decide, .inl ⟨_, hBody, by simp⟩⟩

/-- Settles O46: by the shape of the message's wire form. -/
theorem encodedLength : Obligations.EncodedLength := by
  intro s t m st bytes h hReturned
  by_cases hWf : m.wf = true
  case neg => cases (exec_encMsg_of_not_wf s hWf).symm.trans h
  rw [exec_encMsg_of_wf s hWf] at h
  cases h
  have hResult : encResult m = .encMsg st bytes := by simpa using hReturned
  unfold encResult at hResult
  split at hResult
  case h_2 => cases hResult; exact ⟨nofun, fun _ => rfl⟩
  case h_1 body hBody =>
    cases hResult
    refine ⟨fun _ => ?_, nofun⟩
    obtain ⟨status, rest, hBytes, hStatus, hShape⟩ := wireForm_shape (wireForm_bytes body)
    refine ⟨status, rest, hBytes, hStatus, fun hKind => ?_, fun hKind => ?_⟩
    · obtain ⟨p, rfl, -⟩ | hData := hShape
      · exact absurd (kind_of_body_eq_sysEx hBody) hKind
      · exact hData
    · obtain rfl : .sysEx m.payload = body := Option.some.inj ((body_of_sysEx hKind).symm.trans hBody)
      have hLength : m.payload.length = m.length := by simpa [MsgRecord.wf, hKind] using hWf
      simp [Body.bytes, hLength]

end Machine

end Sys2Proof
end

section
/-! PROOFS. Steps (60_exceptions.md R264, R265, 20_memory.md R59): what a step does with the oldest command, and that a
command reads and writes one stream only, so that commands to different streams commute. -/

namespace Sys2Proof.Machine

/-! ## The step of the oldest command -/

theorem step_of_input_nil {s : State} (h : s.input = []) : step s = .next s := by
  simp only [step, h]

section
variable {s : State} {c : Command} {rest : List Command} (hInput : s.input = c :: rest)
include hInput

theorem step_of_decode_error {e : DecodeError} (h : decode c.word = .error e) : step s = .refused (refusalOf e) := by
  simp only [step, hInput, h]

variable {i : Instr} (hDecode : decode c.word = .ok i)
include hDecode

theorem step_of_accept_none (h : State.accept { s with input := rest } i c.stream = none) :
    step s = .fault (.noSuchStream c.stream) := by
  simp only [step, hInput, hDecode, h]

theorem step_of_accept_some {t : State} (h : State.accept { s with input := rest } i c.stream = some t) :
    step s = exec i t := by
  simp only [step, hInput, hDecode, h]

theorem step_of_shared (h : onStream i = false) : step s = exec i { s with input := rest } :=
  step_of_accept_some hInput hDecode (accept_of_shared _ _ h)

/-- An operation of a stream runs at the port of the stream its command names. -/
theorem step_of_onStream (h : onStream i = true) {z : Streams} (hAll : z.all = s.streams.all)
    (hIndex : z.index = c.stream) : step s = exec i { s with input := rest, streams := z } :=
  step_of_accept_some hInput hDecode
    ((accept_eq_some_of_onStream h).2 ⟨z, focus_eq_some.2 ⟨hAll, hIndex⟩, rfl⟩)

end

theorem exists_focus {z : Streams} {k : Nat} (h : k < z.all.length) : ∃ y : Streams, y.all = z.all ∧ y.index = k := by
  cases hFocus : z.focus k with
  | none => exact absurd (focus_eq_none.1 hFocus) (Nat.not_le.2 h)
  | some y => exact ⟨y, focus_eq_some.1 hFocus⟩

/-- Settles O6: the port of the named stream is there to be used, and shared operations use none. -/
theorem stepRunsTheDecodedInstruction : Obligations.StepRunsTheDecodedInstruction := by
  intro s c rest i hInput hDecode
  refine ⟨fun hStream hLt => ?_, step_of_shared hInput hDecode⟩
  obtain ⟨z, hAll, hIndex⟩ := exists_focus hLt
  exact ⟨z, hAll, hIndex, step_of_onStream hInput hDecode hStream hAll hIndex⟩

/-- Settles O7: the three ways a step carries nothing out. -/
theorem stepHoldsRefusesOrFaults : Obligations.StepHoldsRefusesOrFaults :=
  ⟨fun _ => step_of_input_nil, fun _ _ _ _ hInput hDecode => step_of_decode_error hInput hDecode,
    fun _ _ _ _ hInput hDecode hStream hLe =>
      step_of_accept_none hInput hDecode (accept_eq_none.2 ⟨hStream, hLe⟩)⟩

/-! ## What a command reads and writes -/

/-- The instruction, at the port of stream `k` while that stream is `x`, leaves the stream `y` there and returns `r`,
whatever else the state holds. -/
def ActsOnStream (i : Instr) (p : Params) (k : Nat) (x y : Stream) (r : Result) : Prop :=
  ∀ s : State, s.params = p → s.streams.index = k → s.streams.here = x →
    exec i s = .next ({ s with streams := { s.streams with here := y } }.ret r)

theorem actsOnStream_of_exec {s t : State} {i : Instr} (hStream : onStream i = true) (h : exec i s = .next t) :
    ∃ y r, ActsOnStream i s.params s.streams.index s.streams.here y r := by
  cases completes_of_exec h with
  | @byte _ b ts o hGives hByte =>
    refine ⟨⟨o.dec, s.streams.here.mtc⟩, .decByte o.status (o.msg.map Message.toRecord), fun s' hParams _ hHere => ?_⟩
    rw [← hParams, ← hHere] at hByte
    rw [exec_of_givesByte hGives, hByte, ← hHere]
    rfl
  | decEnd =>
    refine ⟨⟨s.streams.here.dec.clearPending, s.streams.here.mtc⟩, .decEnd .ok, fun s' _ _ hHere => ?_⟩
    rw [← hHere]
    rfl
  | decReset =>
    refine ⟨⟨s.streams.here.dec.recover, s.streams.here.mtc⟩, .decReset .ok, fun s' _ _ hHere => ?_⟩
    rw [← hHere]
    rfl
  | @mtcPush qf =>
    refine ⟨⟨s.streams.here.dec, (s.streams.here.mtc.push s.params.mtcClearOnFrame qf).1⟩,
      .mtcPush .ok (s.streams.here.mtc.push s.params.mtcClearOnFrame qf).2, fun s' hParams _ hHere => ?_⟩
    rw [← hHere, ← hParams]
    rfl
  | mtcReset =>
    refine ⟨⟨s.streams.here.dec, ⟨emptyPieces, 0⟩⟩, .mtcReset .ok, fun s' _ _ hHere => ?_⟩
    rw [← hHere]
    rfl
  | rst =>
    refine ⟨⟨s.streams.here.dec.afterRst s.streams.index, ⟨emptyPieces, 0⟩⟩, .rst .ok, fun s' _ hIndex hHere => ?_⟩
    rw [← hHere, ← hIndex]
    rfl
  | encMsg | sppEnc | sppDec => cases hStream

/-- A shared operation returns its result in every state. -/
theorem exec_eq_retShared {s t : State} {i : Instr} (hShared : onStream i = false) (h : exec i s = .next t) :
    ∃ r, ∀ s', exec i s' = .next (s'.retShared r) := by
  cases completes_of_exec h with
  | @encMsg m hWf => exact ⟨encResult m, fun s' => exec_encMsg_of_wf s' hWf⟩
  | sppEnc => exact ⟨_, fun s' => exec_sppEnc s' _⟩
  | sppDec => exact ⟨_, fun s' => exec_sppDec s' _ _⟩
  | byte hGives => cases hShared.symm.trans hGives.onStream_eq
  | decEnd | decReset | mtcPush | mtcReset | rst => cases hShared

/-- The command, as the oldest, in a state with these parameters whose stream of that number is `x` (none where there is
none), leaves the streams as they are but for `y` there, and returns `r`. -/
def CommandActs (c : Command) (p : Params) (x : Option Stream) (y : Stream) (r : Returned) : Prop :=
  ∀ (s : State) (rest : List Command), s.params = p → s.streams.all[c.stream]? = x → s.input = c :: rest →
    ∃ t, step s = .next t ∧ t.streams.all = s.streams.all.set c.stream y ∧ t.params = s.params ∧ t.input = rest ∧
      t.returned = s.returned ++ [r]

theorem getElem?_index (z : Streams) : z.all[z.index]? = some z.here := by
  simp [Streams.all, Streams.index]

theorem set_index (z : Streams) (y : Stream) : z.all.set z.index y = { z with here := y }.all := by
  simp [Streams.all, Streams.index]

theorem set_getD_getElem? (l : List Stream) (k : Nat) (x : Stream) : l.set k (l[k]?.getD x) = l := by
  cases h : l[k]? with
  | none => exact List.set_eq_of_length_le (List.getElem?_eq_none_iff.1 h)
  | some y =>
    obtain ⟨hLt, rfl⟩ := List.getElem?_eq_some_iff.1 h
    exact List.set_getElem_self hLt

theorem commandActs_of_shared {s t : State} {c : Command} {i : Instr} (hDecode : decode c.word = .ok i)
    (hShared : onStream i = false) (h : exec i s = .next t) (x : Option Stream) (y : Stream) :
    ∃ r, CommandActs c s.params x (x.getD y) r := by
  obtain ⟨r, hExec⟩ := exec_eq_retShared hShared h
  refine ⟨⟨none, r⟩, fun s' rest _ hStream hInput => ⟨_, (step_of_shared hInput hDecode hShared).trans (hExec _), ?_⟩⟩
  exact ⟨by rw [← hStream, set_getD_getElem?]; rfl, rfl, rfl, rfl⟩

theorem commandActs_of_onStream {s t : State} {c : Command} {i : Instr} (hDecode : decode c.word = .ok i)
    (hStream : onStream i = true) (hIndex : s.streams.index = c.stream) (h : exec i s = .next t) :
    ∃ y r, CommandActs c s.params (some s.streams.here) y r := by
  obtain ⟨y, r, hActs⟩ := actsOnStream_of_exec hStream h
  refine ⟨y, ⟨some c.stream, r⟩, fun s' rest hParams hHere hInput => ?_⟩
  obtain ⟨z, hAll, hIndex'⟩ := exists_focus (List.getElem?_eq_some_iff.1 hHere).1
  have hSame : z.here = s.streams.here := by
    rw [← hAll, ← hIndex', getElem?_index] at hHere
    exact Option.some.inj hHere
  have hStep := step_of_onStream hInput hDecode hStream hAll hIndex'
  rw [hActs { s' with input := rest, streams := z } hParams (hIndex'.trans hIndex.symm) hSame] at hStep
  refine ⟨_, hStep, ?_, rfl, rfl, by rw [← hIndex']; rfl⟩
  rw [← hAll, ← hIndex', set_index]
  rfl

/-- A step that answers a next state says what the command does in every state like it. -/
theorem commandActs_of_step {s t : State} {c : Command} {rest : List Command} (hInput : s.input = c :: rest)
    (h : step s = .next t) : ∃ y r, CommandActs c s.params s.streams.all[c.stream]? y r := by
  cases hDecode : decode c.word with
  | error e => cases (step_of_decode_error hInput hDecode).symm.trans h
  | ok i =>
    cases hStream : onStream i
    · rw [step_of_shared hInput hDecode hStream] at h
      obtain ⟨r, hActs⟩ := commandActs_of_shared hDecode hStream h s.streams.all[c.stream]? s.streams.here
      exact ⟨_, r, hActs⟩
    · cases hAccept : State.accept { s with input := rest } i c.stream with
      | none => cases (step_of_accept_none hInput hDecode hAccept).symm.trans h
      | some u =>
        rw [step_of_accept_some hInput hDecode hAccept] at h
        obtain ⟨z, hFocus, rfl⟩ := (accept_eq_some_of_onStream hStream).1 hAccept
        obtain ⟨hAll, hIndex⟩ := focus_eq_some.1 hFocus
        obtain ⟨y, r, hActs⟩ := commandActs_of_onStream hDecode hStream hIndex h
        rw [show s.streams.all[c.stream]? = some z.here by rw [← hIndex, ← getElem?_index, hAll]]
        exact ⟨y, r, hActs⟩

/-! ## Commands to different streams -/

theorem run_succ {M : Host.Core} (k : Nat) {s t : M.State} (h : M.step s = .next t) : M.run (k + 1) s = M.run k t := by
  rw [Host.Core.run, h]

theorem exists_step_of_run {M : Host.Core} {k : Nat} {s t : M.State} (h : M.run (k + 1) s = .next t) :
    ∃ u, M.step s = .next u ∧ M.run k u = .next t := by
  unfold Host.Core.run at h
  split at h
  · next u hStep => exact ⟨u, hStep, h⟩
  · cases h
  · cases h

/-- The two commands one after the other, each acting on its own stream. -/
theorem run_two_of_commandActs {s : State} {c e : Command} {y w : Stream} {r q : Returned} (hNe : c.stream ≠ e.stream)
    (hFirst : CommandActs c s.params s.streams.all[c.stream]? y r)
    (hSecond : CommandActs e s.params s.streams.all[e.stream]? w q) :
    ∃ t, core.run 2 { s with input := [c, e] } = .next t ∧
      t.streams.all = (s.streams.all.set c.stream y).set e.stream w ∧ t.params = s.params ∧
      t.returned = s.returned ++ [r, q] := by
  obtain ⟨u, hStep, hAll, hParams, hInput, hReturned⟩ := hFirst { s with input := [c, e] } [e] rfl rfl rfl
  obtain ⟨t, hStep', hAll', hParams', -, hReturned'⟩ :=
    hSecond u [] hParams (by rw [hAll, List.getElem?_set_ne hNe]) hInput
  refine ⟨t, (run_succ 1 hStep).trans (run_succ 0 hStep'), ?_, hParams'.trans hParams, ?_⟩
  · rw [hAll', hAll]
  · rw [hReturned', hReturned]
    simp

/-- Settles O39: each command acts alike before and after the other, and the two streams they set are different. -/
theorem commandsToDifferentStreamsCommute : Obligations.CommandsToDifferentStreamsCommute := by
  intro s t c e hNe h
  obtain ⟨u, hStep, hRun⟩ : ∃ u, step { s with input := [c, e] } = .next u ∧ core.run 1 u = .next t :=
    exists_step_of_run h
  obtain ⟨u', hStep', -⟩ : ∃ u', step u = .next u' ∧ core.run 0 u' = .next t := exists_step_of_run hRun
  obtain ⟨y, r, hFirst⟩ := commandActs_of_step rfl hStep
  obtain ⟨v, hv, hAll, hParams, hInput, -⟩ := hFirst { s with input := [c, e] } [e] rfl rfl rfl
  obtain rfl : v = u := Host.Outcome.next.inj (hv.symm.trans hStep)
  obtain ⟨w, q, hSecond⟩ := commandActs_of_step hInput hStep'
  rw [hParams, hAll, List.getElem?_set_ne hNe] at hSecond
  obtain ⟨t', ht, htAll, htParams, htReturned⟩ := run_two_of_commandActs hNe hFirst hSecond
  obtain rfl : t' = t := Host.Outcome.next.inj (ht.symm.trans h)
  obtain ⟨x, hx, hxAll, hxParams, hxReturned⟩ := run_two_of_commandActs hNe.symm hSecond hFirst
  exact ⟨x, r, q, hx, by rw [htAll, hxAll, List.set_comm _ _ hNe], htParams.trans hxParams.symm, htReturned, hxReturned⟩

end Sys2Proof.Machine
end

section
/-! PROOFS. Arrivals (40_decoder.md R111): runs of bytes put together, the capture of a SysEx across arrivals
(R122 to R127), and the messages that the wire forms yield (41_encoder.md R194, R195). -/

namespace Sys2Proof.Machine

/-! ## Runs of bytes -/

section
variable {cap : Nat} {d : Dec} {ts : Stamp}

theorem bytes_nil : d.bytes cap ts [] = .ok ⟨d, .ok, []⟩ := rfl

theorem bytes_cons {b : Byte} {rest : List Byte} {o : DecOut} {a : ArrivalOut} (hByte : d.byte cap b ts = .ok o)
    (hRest : o.dec.bytes cap ts rest = .ok a) :
    d.bytes cap ts (b :: rest) =
      .ok ⟨a.dec, if a.status = .ok then o.status else a.status, o.msg.toList ++ a.msgs⟩ := by
  simp only [Dec.bytes, hByte, hRest]

theorem bytes_cons_eq_ok {b : Byte} {rest : List Byte} {a : ArrivalOut} (h : d.bytes cap ts (b :: rest) = .ok a) :
    ∃ o a', d.byte cap b ts = .ok o ∧ o.dec.bytes cap ts rest = .ok a' ∧
      a = ⟨a'.dec, if a'.status = .ok then o.status else a'.status, o.msg.toList ++ a'.msgs⟩ := by
  cases hByte : d.byte cap b ts with
  | error f => simp only [Dec.bytes, hByte, reduceCtorEq] at h
  | ok o =>
    cases hRest : o.dec.bytes cap ts rest with
    | error f => simp only [Dec.bytes, hByte, hRest, reduceCtorEq] at h
    | ok a' => exact ⟨o, a', rfl, hRest, Except.ok.inj (h.symm.trans (bytes_cons hByte hRest))⟩

theorem bytes_append {xs ys : List Byte} {a a' : ArrivalOut} (hFirst : d.bytes cap ts xs = .ok a)
    (hSecond : a.dec.bytes cap ts ys = .ok a') :
    d.bytes cap ts (xs ++ ys) =
      .ok ⟨a'.dec, if a'.status = .ok then a.status else a'.status, a.msgs ++ a'.msgs⟩ := by
  induction xs generalizing d a with
  | nil =>
    cases hFirst
    obtain ⟨_, status, _⟩ := a'
    cases status <;> exact hSecond
  | cons b rest ih =>
    obtain ⟨o, a₁, hByte, hRest, rfl⟩ := bytes_cons_eq_ok hFirst
    rw [List.cons_append, bytes_cons hByte (ih hRest hSecond)]
    congr 2
    · split_ifs <;> simp_all
    · simp

/-- A first byte with status OK before a run with status OK. -/
theorem bytes_ok_cons {b : Byte} {rest : List Byte} {d₁ d₂ : Dec} {m : Option Message} {msgs : List Message}
    (hByte : d.byte cap b ts = .ok ⟨d₁, .ok, m⟩) (hRest : d₁.bytes cap ts rest = .ok ⟨d₂, .ok, msgs⟩) :
    d.bytes cap ts (b :: rest) = .ok ⟨d₂, .ok, m.toList ++ msgs⟩ := bytes_cons hByte hRest

theorem bytes_ok_append {xs ys : List Byte} {d₁ d₂ : Dec} {msgs msgs' : List Message}
    (hFirst : d.bytes cap ts xs = .ok ⟨d₁, .ok, msgs⟩) (hSecond : d₁.bytes cap ts ys = .ok ⟨d₂, .ok, msgs'⟩) :
    d.bytes cap ts (xs ++ ys) = .ok ⟨d₂, .ok, msgs ++ msgs'⟩ := bytes_append hFirst hSecond

theorem arrival_of_bytes {bytes : List Byte} {a : ArrivalOut} (h : d.bytes cap ts bytes = .ok a) :
    d.arrival cap ts bytes = .ok { a with dec := a.dec.clearPending } := by
  simp only [Dec.arrival, h]

theorem arrival_eq_ok {bytes : List Byte} {a : ArrivalOut} (h : d.arrival cap ts bytes = .ok a) :
    ∃ a', d.bytes cap ts bytes = .ok a' ∧ a = { a' with dec := a'.dec.clearPending } := by
  cases hBytes : d.bytes cap ts bytes with
  | error f => simp only [Dec.arrival, hBytes, reduceCtorEq] at h
  | ok a' => exact ⟨a', rfl, Except.ok.inj (h.symm.trans (arrival_of_bytes hBytes))⟩

theorem arrivals_cons {bytes : List Byte} {rest : List (Stamp × List Byte)} {o a : ArrivalOut}
    (hFirst : d.arrival cap ts bytes = .ok o) (hRest : o.dec.arrivals cap rest = .ok a) :
    d.arrivals cap ((ts, bytes) :: rest) =
      .ok ⟨a.dec, if a.status = .ok then o.status else a.status, o.msgs ++ a.msgs⟩ := by
  simp only [Dec.arrivals, hFirst, hRest]

end

/-! ## The capture of a SysEx (R122, R123) -/

theorem realTimeBody_of_lt {b : Byte} (h : b < 0xF8#8) : realTimeBody b = none := by
  revert b; decide

/-- The messages of the real-time bytes of an arrival are all of real-time kinds. -/
theorem filter_realTime_messages (bytes : List Byte) (ts : Stamp) :
    ((bytes.filterMap realTimeBody).map (⟨·, ts⟩ : Body → Message)).filter (fun m => !m.body.isRealTime) = [] := by
  simp only [List.filter_eq_nil_iff, List.mem_map, List.mem_filterMap]
  rintro m ⟨body, ⟨b, -, hBody⟩, rfl⟩
  simp [(realTimeBody_spec hBody).1]

theorem holds_clearPending {d : Dec} {capture : Option (List Byte)} (h : d.holds capture) :
    d.clearPending.holds capture := by
  obtain ⟨hFault, -, -, hCapture⟩ := h
  cases capture <;> exact ⟨hFault, rfl, rfl, hCapture⟩

section
variable {cap : Nat} {d : Dec} {q : List Byte}

theorem holds_openSysEx (hFault : d.decFault = false) :
    ({ d with sxOpen := true, sxLen := 0, pendNeed := 0, pendHave := 0 } : Dec).holds (some []) :=
  ⟨hFault, rfl, rfl, rfl, rfl⟩

/-- A run of reads after the byte at its end is written. -/
theorem Memory.readRun_write_end {m : Memory} {n : Nat} (b : Byte) (h : readRun m 0 n = some q) :
    readRun (write m n b) 0 (n + 1) = some (q ++ [b]) := by
  obtain ⟨rfl, hRead⟩ := readRun_eq_some.1 h
  refine readRun_eq_some.2 ⟨by simp, fun k hk => ?_⟩
  rw [Nat.zero_add, read_write]
  split
  · next hEnd => simp [hEnd]
  · next hNe => rw [List.getElem?_append_left (by omega), ← hRead k (by omega), Nat.zero_add]

theorem byte_of_holds {b : Byte} (ts : Stamp) (h : d.holds (some q)) (hByte : b < 0xF7#8) (hRoom : q.length < cap) :
    ∃ d', d.byte cap b ts = .ok ⟨d', .ok, none⟩ ∧ d'.holds (some (q ++ [b])) := by
  obtain ⟨hFault, hNeed, hHave, hOpen, hRun⟩ := h
  have hLength := (Memory.readRun_eq_some.1 hRun).1
  exact ⟨_, byte_of_store ts hFault hOpen hByte (hLength ▸ hRoom), hFault, hNeed, hHave, hOpen,
    Memory.readRun_write_end b hRun⟩

/-- While a SysEx is open its bytes are captured and only real-time messages are emitted. -/
theorem bytes_of_holds {bytes : List Byte} (ts : Stamp) (h : d.holds (some q)) (hEnd : 0xF7#8 ∉ bytes)
    (hFits : q.length + (bytes.filter (· < 0xF7#8)).length ≤ cap) :
    ∃ d', d.bytes cap ts bytes = .ok ⟨d', .ok, (bytes.filterMap realTimeBody).map (⟨·, ts⟩)⟩ ∧
      d'.holds (some (q ++ bytes.filter (· < 0xF7#8))) := by
  induction bytes generalizing d q with
  | nil => exact ⟨d, rfl, by simpa using h⟩
  | cons b rest ih =>
    rw [List.mem_cons, not_or] at hEnd
    obtain ⟨hNe, hEnd⟩ := hEnd
    by_cases hByte : b < 0xF7#8
    · have hQuiet := realTimeBody_of_lt (b := b) (by bv_omega)
      rw [List.filter_cons_of_pos (by simpa using hByte)] at hFits ⊢
      obtain ⟨d₁, hFirst, hHolds⟩ := byte_of_holds (cap := cap) ts h hByte (by simp at hFits; omega)
      obtain ⟨d₂, hRest, hHolds⟩ := ih hHolds hEnd (by simp at hFits ⊢; omega)
      refine ⟨d₂, ?_, by simpa using hHolds⟩
      rw [bytes_ok_cons hFirst hRest, List.filterMap_cons_none hQuiet]
      rfl
    · have hRealTime : 0xF8#8 ≤ b := by bv_omega
      rw [List.filter_cons_of_neg (by simpa using hByte)] at hFits ⊢
      obtain ⟨d₁, hRest, hHolds⟩ := ih h hEnd hFits
      refine ⟨d₁, ?_, hHolds⟩
      rw [bytes_ok_cons (byte_of_realTime ts h.1 hRealTime) hRest, List.filterMap_cons]
      cases realTimeBody b <;> rfl

/-- 0xF0 outside a SysEx and the bytes that follow it. -/
theorem bytes_of_sysExStart {bytes : List Byte} (ts : Stamp) (hFault : d.decFault = false) (hOpen : d.sxOpen = false)
    (hEnd : 0xF7#8 ∉ bytes) (hFits : (bytes.filter (· < 0xF7#8)).length ≤ cap) :
    ∃ d', d.bytes cap ts (0xF0#8 :: bytes) = .ok ⟨d', .ok, (bytes.filterMap realTimeBody).map (⟨·, ts⟩)⟩ ∧
      d'.holds (some (bytes.filter (· < 0xF7#8))) := by
  obtain ⟨d', hBytes, hHolds⟩ := bytes_of_holds ts (holds_openSysEx hFault) hEnd (by simpa using hFits)
  exact ⟨d', bytes_ok_cons (byte_of_sysExStart ts hFault hOpen) hBytes, hHolds⟩

/-- 0xF0 and payload bytes alone, none a real-time byte. -/
theorem bytes_of_sysExStart_payload {p : List Byte} (ts : Stamp) (hFault : d.decFault = false)
    (hOpen : d.sxOpen = false) (hPayload : ∀ b ∈ p, b < 0xF7#8) (hFits : p.length ≤ cap) :
    ∃ d', d.bytes cap ts (0xF0#8 :: p) = .ok ⟨d', .ok, []⟩ ∧ d'.holds (some p) := by
  have hEnd : 0xF7#8 ∉ p := fun hMem => absurd (hPayload _ hMem) (by decide)
  have hAll : p.filter (· < 0xF7#8) = p := List.filter_eq_self.2 (by simpa using hPayload)
  have hQuiet : p.filterMap realTimeBody = [] := List.filterMap_eq_nil_iff.2 fun b hMem => by
    have hByte := hPayload b hMem
    exact realTimeBody_of_lt (by bv_omega)
  simpa [hAll, hQuiet] using bytes_of_sysExStart (cap := cap) ts hFault hOpen hEnd (by rwa [hAll])

theorem bytes_of_holds_end (ts : Stamp) (h : d.holds (some q)) :
    d.bytes cap ts [0xF7#8] = .ok ⟨{ d with sxOpen := false, sxLen := 0 }, .ok, [⟨.sysEx q, ts⟩]⟩ := by
  obtain ⟨hFault, -, -, hOpen, hRun⟩ := h
  exact bytes_ok_cons (byte_of_sysExEnd ts hFault hOpen hRun) bytes_nil

end

/-! ## A SysEx across arrivals (R126) -/

section
variable {cap : Nat} {d : Dec} {q : List Byte}

theorem arrival_of_holds {bytes : List Byte} (ts : Stamp) (h : d.holds (some q)) (hEnd : 0xF7#8 ∉ bytes)
    (hFits : q.length + (bytes.filter (· < 0xF7#8)).length ≤ cap) :
    ∃ a, d.arrival cap ts bytes = .ok a ∧ a.status = .ok ∧ a.msgs.filter (fun m => !m.body.isRealTime) = [] ∧
      a.dec.holds (some (q ++ bytes.filter (· < 0xF7#8))) := by
  obtain ⟨d', hBytes, hHolds⟩ := bytes_of_holds ts h hEnd hFits
  exact ⟨_, arrival_of_bytes hBytes, rfl, filter_realTime_messages .., holds_clearPending hHolds⟩

theorem arrival_of_sysExStart {bytes : List Byte} (ts : Stamp) (hFault : d.decFault = false) (hOpen : d.sxOpen = false)
    (hEnd : 0xF7#8 ∉ bytes) (hFits : (bytes.filter (· < 0xF7#8)).length ≤ cap) :
    ∃ a, d.arrival cap ts (0xF0#8 :: bytes) = .ok a ∧ a.status = .ok ∧
      a.msgs.filter (fun m => !m.body.isRealTime) = [] ∧ a.dec.holds (some (bytes.filter (· < 0xF7#8))) := by
  obtain ⟨d', hBytes, hHolds⟩ := bytes_of_sysExStart ts hFault hOpen hEnd hFits
  exact ⟨_, arrival_of_bytes hBytes, rfl, filter_realTime_messages .., holds_clearPending hHolds⟩

theorem arrival_of_holds_end {bytes : List Byte} (ts : Stamp) (h : d.holds (some q)) (hEnd : 0xF7#8 ∉ bytes)
    (hFits : q.length + (bytes.filter (· < 0xF7#8)).length ≤ cap) :
    ∃ a, d.arrival cap ts (bytes ++ [0xF7#8]) = .ok a ∧ a.status = .ok ∧ a.dec.mode = .idle ∧
      a.msgs.filter (fun m => !m.body.isRealTime) = [⟨.sysEx (q ++ bytes.filter (· < 0xF7#8)), ts⟩] := by
  obtain ⟨d', hBytes, hHolds⟩ := bytes_of_holds ts h hEnd hFits
  refine ⟨_, arrival_of_bytes (bytes_ok_append hBytes (bytes_of_holds_end ts hHolds)), rfl,
    mode_clearPending_of_closed hHolds.1 rfl, ?_⟩
  rw [List.filter_append, filter_realTime_messages]
  rfl

/-- Arrivals while a SysEx is open, the last of which ends it. -/
theorem arrivals_of_holds {between : List (Stamp × List Byte)} {last : Stamp × List Byte} (h : d.holds (some q))
    (hEnd : 0xF7#8 ∉ between.flatMap (·.2) ++ last.2)
    (hFits : q.length + ((between.flatMap (·.2) ++ last.2).filter (· < 0xF7#8)).length ≤ cap) :
    ∃ a, d.arrivals cap (between ++ [(last.1, last.2 ++ [0xF7#8])]) = .ok a ∧ a.status = .ok ∧ a.dec.mode = .idle ∧
      a.msgs.filter (fun m => !m.body.isRealTime) =
        [⟨.sysEx (q ++ (between.flatMap (·.2) ++ last.2).filter (· < 0xF7#8)), last.1⟩] := by
  induction between generalizing d q with
  | nil =>
    obtain ⟨a, hArrival, hStatus, hMode, hMsgs⟩ := arrival_of_holds_end last.1 h hEnd hFits
    refine ⟨_, arrivals_cons hArrival rfl, by simpa using hStatus, hMode, by simpa using hMsgs⟩
  | cons next rest ih =>
    rw [List.flatMap_cons, List.append_assoc, List.mem_append, not_or] at hEnd
    obtain ⟨hEnd, hEndRest⟩ := hEnd
    rw [List.flatMap_cons, List.append_assoc, List.filter_append] at hFits ⊢
    rw [List.length_append] at hFits
    obtain ⟨o, hArrival, hOk, hQuiet, hHolds⟩ := arrival_of_holds (cap := cap) next.1 h hEnd (by omega)
    obtain ⟨a, hRest, hStatus, hMode, hMsgs⟩ := ih hHolds hEndRest (by rw [List.length_append]; omega)
    refine ⟨_, arrivals_cons hArrival hRest, by simp [hStatus, hOk], hMode, ?_⟩
    rw [List.filter_append, hQuiet, hMsgs, List.append_assoc]
    rfl

end

/-- Settles O16: the first arrival opens the capture, the others go on with it until 0xF7. -/
theorem sysExIsReassembledAcrossArrivals : Obligations.SysExIsReassembledAcrossArrivals := by
  intro cap d first last between hFault hOpen wire hEnd hFits
  have hWire : wire = first.2 ++ (between.flatMap (·.2) ++ last.2) := List.append_assoc ..
  rw [hWire] at hEnd hFits ⊢
  rw [List.mem_append, not_or] at hEnd
  obtain ⟨hEnd, hEndRest⟩ := hEnd
  rw [List.filter_append, List.length_append] at hFits
  obtain ⟨o, hArrival, hOk, hQuiet, hHolds⟩ :=
    arrival_of_sysExStart (cap := cap) first.1 hFault hOpen hEnd (by omega)
  obtain ⟨a, hRest, hStatus, hMode, hMsgs⟩ := arrivals_of_holds hHolds hEndRest hFits
  refine ⟨_, arrivals_cons hArrival hRest, by simp [hStatus, hOk], hMode, ?_⟩
  rw [List.filter_append, hQuiet, hMsgs, List.filter_append (l₁ := first.2)]
  rfl

/-! ## The messages the wire forms yield -/

section
variable {cap : Nat} {d : Dec} (ts : Stamp) (hFault : d.decFault = false) (hOpen : d.sxOpen = false)
include hFault hOpen

/-- A status and one data byte. -/
theorem bytes_of_oneData {s : Byte} {x : Data7} {body : Body} (hCount : ndata s = 1)
    (hBody : buildBody s x 0 = some body) :
    ∃ d', d.bytes cap ts [s, dataByte x] = .ok ⟨d', .ok, [⟨body, ts⟩]⟩ ∧ d'.holds none := by
  have hStart := byte_of_start (cap := cap) (b := s) ts hFault hOpen (by simp [hCount])
  rw [hCount] at hStart
  have hLast := byte_of_complete (cap := cap) (d := { d with pendStatus := s, pendNeed := 1, pendHave := 0 }) ts hFault
    hOpen (dataByte_lt x) rfl (by simpa using hBody)
  exact ⟨_, bytes_ok_cons hStart (bytes_ok_cons hLast bytes_nil), hFault, rfl, rfl, hOpen⟩

/-- A status and two data bytes. -/
theorem bytes_of_twoData {s : Byte} {x y : Data7} {body : Body} (hCount : ndata s = 2)
    (hBody : buildBody s x y = some body) :
    ∃ d', d.bytes cap ts [s, dataByte x, dataByte y] = .ok ⟨d', .ok, [⟨body, ts⟩]⟩ ∧ d'.holds none := by
  have hStart := byte_of_start (cap := cap) (b := s) ts hFault hOpen (by simp [hCount])
  rw [hCount] at hStart
  have hFirst := byte_of_hold (cap := cap) (d := { d with pendStatus := s, pendNeed := 2, pendHave := 0 }) ts hFault
    hOpen (dataByte_lt x) (by simp) (by simp)
  have hLast := byte_of_complete (cap := cap)
    (d := { d with pendStatus := s, pendNeed := 1, pendHave := 1, pendD0 := low7 (dataByte x) }) ts hFault hOpen
    (dataByte_lt y) rfl (by simpa using hBody)
  exact ⟨_, bytes_ok_cons hStart (bytes_ok_cons hFirst (bytes_ok_cons hLast bytes_nil)), hFault, rfl, rfl, hOpen⟩

theorem bytes_of_wireForm {body : Body} {bytes : List Byte} (h : WireForm body bytes) (hBody : body.representable cap) :
    ∃ d', d.bytes cap ts bytes = .ok ⟨d', .ok, [⟨body, ts⟩]⟩ ∧ d'.decFault = false ∧ d'.sxOpen = false := by
  cases h with
  | realTime hByte hRealTime =>
    refine ⟨d, ?_, hFault, hOpen⟩
    rw [bytes_ok_cons (byte_of_realTime ts hFault hByte) bytes_nil, hRealTime]
    rfl
  | tuneRequest hTune =>
    subst hTune
    exact ⟨_, bytes_ok_cons (byte_of_tuneRequest ts hFault hOpen) bytes_nil, hFault, hOpen⟩
  | oneData hCount hBuild =>
    obtain ⟨d', hBytes, hFault, -, -, hOpen⟩ := bytes_of_oneData ts hFault hOpen hCount (hBuild 0)
    exact ⟨d', hBytes, hFault, hOpen⟩
  | twoData hCount hBuild =>
    obtain ⟨d', hBytes, hFault, -, -, hOpen⟩ := bytes_of_twoData ts hFault hOpen hCount (hBuild cap hBody)
    exact ⟨d', hBytes, hFault, hOpen⟩
  | @sysEx p hSysEx =>
    subst hSysEx
    obtain ⟨hLength, hPayload⟩ := hBody
    obtain ⟨d', hBytes, hHolds⟩ := bytes_of_sysExStart_payload ts hFault hOpen hPayload hLength
    exact ⟨_, bytes_ok_append hBytes (bytes_of_holds_end ts hHolds), hHolds.1, rfl⟩

end

/-- Settles O48: after each message DEC is closed and not faulted again, whatever it has pending. -/
theorem concatenatedMessagesDecodeInOrder : Obligations.ConcatenatedMessagesDecodeInOrder := by
  intro cap d ts bodies hFault hOpen hBodies
  suffices h : ∃ d', d.bytes cap ts (bodies.flatMap Body.bytes) = .ok ⟨d', .ok, bodies.map (⟨·, ts⟩)⟩ ∧
      d'.decFault = false ∧ d'.sxOpen = false by
    obtain ⟨d', hBytes, hFault, hOpen⟩ := h
    exact ⟨_, arrival_of_bytes hBytes, mode_clearPending_of_closed hFault hOpen⟩
  induction bodies generalizing d with
  | nil => exact ⟨d, rfl, hFault, hOpen⟩
  | cons body rest ih =>
    rw [List.forall_mem_cons] at hBodies
    obtain ⟨hBody, hRest⟩ := hBodies
    obtain ⟨d₁, hFirst, hFault, hOpen⟩ := bytes_of_wireForm ts hFault hOpen (wireForm_bytes body) hBody
    obtain ⟨d₂, hSecond, hClosed⟩ := ih d₁ hFault hOpen hRest
    exact ⟨d₂, bytes_ok_append hFirst hSecond, hClosed⟩

/-- The arrival of one message. -/
theorem arrival_of_body {cap : Nat} {d : Dec} (ts : Stamp) {body : Body} (hFault : d.decFault = false)
    (hOpen : d.sxOpen = false) (hBody : body.representable cap) :
    ∃ d', d.arrival cap ts body.bytes = .ok ⟨d', .ok, [⟨body, ts⟩]⟩ ∧ d'.mode = .idle := by
  simpa using concatenatedMessagesDecodeInOrder cap d ts [body] hFault hOpen (by simpa using hBody)

theorem toRecord_wf (body : Body) (ts : Stamp) : (body.toRecord ts).wf = true := by
  cases body <;> simp [Body.toRecord, MsgRecord.wf]

/-- Settles O47: the record selects its message again, and a DEC in its reset state is closed and not faulted. -/
theorem roundTrip : Obligations.RoundTrip := by
  intro s cap k ts ts' body hBody
  refine ⟨?_, arrival_of_body ts' rfl rfl hBody⟩
  rw [exec_encMsg_of_wf s (toRecord_wf body ts), encResult, body_toRecord]

/-- A payload byte when the buffer is full. -/
theorem bytes_of_holds_full {cap : Nat} {d : Dec} {q : List Byte} {b : Byte} (ts : Stamp) (h : d.holds (some q))
    (hByte : b < 0xF7#8) (hFull : cap ≤ q.length) :
    d.bytes cap ts [b] = .ok ⟨{ d with decFault := true }, .bufferOverflow, []⟩ := by
  obtain ⟨hFault, -, -, hOpen, hRun⟩ := h
  have hLength := (Memory.readRun_eq_some.1 hRun).1
  exact bytes_cons (byte_of_overflow ts hFault hOpen hByte (hLength ▸ hFull)) bytes_nil

/-- Settles O17: the capture holds the first bytes when the last one overflows, and DEC.RESET closes it. -/
theorem overflowThenResetDecodesNormally : Obligations.OverflowThenResetDecodesNormally := by
  intro cap d ts ts' p body hFault hOpen hLength hPayload hBody
  obtain ⟨x, hLast⟩ : ∃ x, p.drop cap = [x] := List.length_eq_one_iff.1 (by simp [hLength])
  have hSplit : p = p.take cap ++ [x] := by rw [← hLast, List.take_append_drop]
  have hTake : (p.take cap).length = cap := by simp [hLength]
  obtain ⟨d₁, hFirst, hHolds⟩ := bytes_of_sysExStart_payload (cap := cap) ts hFault hOpen
    (fun b hMem => hPayload b (List.mem_of_mem_take hMem)) hTake.le
  have hOverflow := bytes_of_holds_full (cap := cap) (b := x) ts hHolds
    (hPayload x (by rw [hSplit]; simp)) hTake.ge
  have hArrival := arrival_of_bytes (bytes_append hFirst hOverflow)
  rw [List.cons_append, ← hSplit] at hArrival
  obtain ⟨-, -, -, hOpen₁, hRun⟩ := hHolds
  have hLen : d₁.sxLen = cap := (Memory.readRun_eq_some.1 hRun).1.symm.trans hTake
  obtain ⟨d₂, hMessage, -⟩ :=
    arrival_of_body ts' (d := Dec.recover { d₁ with decFault := true }.clearPending) rfl rfl hBody
  exact ⟨_, _, hArrival, rfl, rfl, rfl, hOpen₁, hLen, hLen ▸ hRun, hMessage, rfl, rfl⟩

end Sys2Proof.Machine
end

section
/-! PROOFS. Real-time bytes are transparent (40_decoder.md R121), and an arrival is the run of its commands
(30_encoding.md R88). -/

namespace Sys2Proof.Machine

/-! ## Real-time messages come from real-time bytes -/

theorem isRealTime_of_buildBody {s : Byte} {d0 d1 : Data7} {body : Body} (h : buildBody s d0 d1 = some body) :
    body.isRealTime = false := by
  unfold buildBody at h
  split at h
  case h_8 => split at h <;> cases h <;> rfl
  all_goals cases h
  all_goals rfl

theorem ByteCase.isRealTime_msg {cap : Nat} {d : Dec} {b : Byte} {ts : Stamp} {o : DecOut} {m : Message}
    (h : ByteCase cap d b ts (.ok o)) (hByte : b < 0xF8#8) (hMsg : o.msg = some m) : m.body.isRealTime = false := by
  cases h with
  | realTime _ hRealTime => bv_omega
  | complete _ _ _ _ hBody => cases hMsg; exact isRealTime_of_buildBody hBody
  | terminate | tuneRequest => cases hMsg; rfl
  | discard | store | overflow | stray | hold | start | openSysEx | reserved => cases hMsg

/-- The messages of a byte that are not real-time: all of them, but for the bytes from 0xF8 up. -/
theorem filter_msg_toList {cap : Nat} {d : Dec} {b : Byte} {ts : Stamp} {o : DecOut} (h : ByteCase cap d b ts (.ok o))
    (hByte : b < 0xF8#8) : o.msg.toList.filter (fun m => !m.body.isRealTime) = o.msg.toList := by
  refine List.filter_eq_self.2 fun m hMem => ?_
  simp [h.isRealTime_msg hByte (Option.mem_toList.1 hMem)]

/-- The message of a byte from 0xF8 up, if it has one, is real-time. -/
theorem filter_realTime_message (b : Byte) (ts : Stamp) :
    ((realTimeBody b).map (⟨·, ts⟩ : Body → Message)).toList.filter (fun m => !m.body.isRealTime) = [] := by
  cases hBody : realTimeBody b with
  | none => rfl
  | some body => simp [(realTimeBody_spec hBody).1]

theorem bytes_of_faulted {cap : Nat} {d : Dec} (ts : Stamp) (hFault : d.decFault = true) (bytes : List Byte) :
    d.bytes cap ts bytes = .ok ⟨d, if bytes = [] then .ok else .bufferOverflow, []⟩ := by
  induction bytes with
  | nil => rfl
  | cons b rest ih =>
    rw [bytes_cons (byte_of_faulted ts hFault) ih]
    by_cases hRest : rest = [] <;> simp [hRest]

/-- A byte that overflows leaves nothing to say about the bytes after it. -/
theorem bytes_after_overflow {cap : Nat} {d : Dec} {b : Byte} {ts : Stamp} {o : DecOut}
    (hByte : d.byte cap b ts = .ok o) (hStatus : o.status = .bufferOverflow) (hMsg : o.msg = none)
    (hFault : o.dec.decFault = true) (rest : List Byte) :
    d.bytes cap ts (b :: rest) = .ok ⟨o.dec, .bufferOverflow, []⟩ := by
  rw [bytes_cons hByte (bytes_of_faulted ts hFault rest), hStatus, hMsg]
  by_cases hRest : rest = [] <;> simp [hRest]

theorem bytes_filter_realTime {cap : Nat} {d : Dec} {ts : Stamp} {bytes : List Byte} {a : ArrivalOut}
    (hFault : d.decFault = false) (h : d.bytes cap ts bytes = .ok a) :
    d.bytes cap ts (bytes.filter (· < 0xF8#8)) = .ok { a with msgs := a.msgs.filter fun m => !m.body.isRealTime } := by
  induction bytes generalizing d a with
  | nil => cases h; rfl
  | cons b rest ih =>
    obtain ⟨o, a₁, hByte, hRest, rfl⟩ := bytes_cons_eq_ok h
    have hCase := byteCase_of_eq hByte
    by_cases hLow : b < 0xF8#8
    · rw [List.filter_cons_of_pos (by simpa using hLow)]
      obtain ⟨-, hSound⟩ | ⟨hStatus, hMsg, hFaulted⟩ := hCase.status
      · rw [bytes_cons hByte (ih hSound hRest), List.filter_append, filter_msg_toList hCase hLow]
      · rw [bytes_after_overflow hByte hStatus hMsg hFaulted]
        rw [bytes_after_overflow hByte hStatus hMsg hFaulted] at h
        rw [← Except.ok.inj h]
        rfl
    · obtain rfl := Except.ok.inj (hByte.symm.trans (byte_of_realTime ts hFault (BitVec.not_lt.1 hLow)))
      rw [List.filter_cons_of_neg (by simpa using hLow), ih hFault hRest, List.filter_append, filter_realTime_message]
      congr 2
      split <;> simp [*]

/-- Settles O27: DEC.END comes after both runs. -/
theorem realTimeBytesAreTransparent : Obligations.RealTimeBytesAreTransparent := by
  intro cap d ts bytes a hFault h
  obtain ⟨a', hBytes, rfl⟩ := arrival_eq_ok h
  rw [arrival_of_bytes (bytes_filter_realTime hFault hBytes)]

/-! ## An arrival as its commands (R88) -/

/-- A command to the port in use runs its instruction there. -/
theorem step_of_own_command {s : State} {i : Instr} {rest : List Command}
    (hInput : s.input = ⟨s.streams.index, encode i⟩ :: rest) (hWf : WellFormed i = true) (hStream : onStream i = true) :
    step s = exec i { s with input := rest } :=
  step_of_onStream (z := s.streams) hInput (decodeInvertsEncode i hWf) hStream rfl rfl

theorem status_eq_ok_or_overflow_of_bytes {cap : Nat} {d : Dec} {ts : Stamp} {bytes : List Byte} {a : ArrivalOut}
    (h : d.bytes cap ts bytes = .ok a) : a.status = .ok ∨ a.status = .bufferOverflow := by
  induction bytes generalizing d a with
  | nil => cases h; exact .inl rfl
  | cons b rest ih =>
    obtain ⟨o, a', hByte, hRest, rfl⟩ := bytes_cons_eq_ok h
    obtain hOk | hOverflow := ih hRest
    · simpa [hOk] using (byteCase_of_eq hByte).status.imp And.left And.left
    · exact .inr (by simp [hOverflow])

/-- The status of two runs put together is OK where both are. -/
theorem joined_status_eq_ok_iff {x y : Status} : (if y = .ok then x else y) = .ok ↔ x = .ok ∧ y = .ok := by
  split_ifs <;> simp [*]

/-- The state after the DEC.BYTE commands of an arrival, with the results `rs` and the commands `rest` still to come. -/
def State.afterBytes (s : State) (a : ArrivalOut) (rest : List Command) (rs : List Returned) : State :=
  { s.setDec a.dec with input := rest, returned := s.returned ++ rs }

theorem afterBytes_self (s : State) (status : Status) (msgs : List Message) :
    s.afterBytes ⟨s.streams.here.dec, status, msgs⟩ s.input [] = s := by
  simp [State.afterBytes]

theorem messagesOf_decByte_cons (k : Option Nat) (status : Status) (m : Option Message) (rs : List Returned) :
    messagesOf (⟨k, .decByte status (m.map Message.toRecord)⟩ :: rs) =
      m.toList.map Message.toRecord ++ messagesOf rs := by
  cases m <;> rfl

theorem run_byte_commands {bytes : List Byte} {s : State} {ts : Stamp} {rest : List Command} {a : ArrivalOut} (n : Nat)
    (hInput : s.input = bytes.map (fun b => ⟨s.streams.index, encode (.decByte b ts)⟩) ++ rest)
    (h : s.streams.here.dec.bytes s.params.sysexCap ts bytes = .ok a) :
    ∃ rs, core.run (bytes.length + n) s = core.run n (s.afterBytes a rest rs) ∧ rs.length = bytes.length ∧
      messagesOf rs = a.msgs.map Message.toRecord ∧ (a.status = .ok ↔ ∀ r ∈ rs, r.result.status = .ok) := by
  induction bytes generalizing s a with
  | nil =>
    cases h
    obtain rfl : s.input = rest := hInput
    exact ⟨[], by rw [afterBytes_self, List.length_nil, Nat.zero_add], rfl, rfl, by simp⟩
  | cons b bytes ih =>
    obtain ⟨o, a', hByte, hRest, rfl⟩ := bytes_cons_eq_ok h
    have hStep := (step_of_own_command hInput rfl rfl).trans (congrArg (State.decStep _) hByte)
    obtain ⟨rs, hRun, hLength, hMsgs, hStatus⟩ := ih (s := State.decNext
      { s with input := bytes.map (fun b => ⟨s.streams.index, encode (.decByte b ts)⟩) ++ rest } o) rfl hRest
    refine ⟨⟨some s.streams.index, .decByte o.status (o.msg.map Message.toRecord)⟩ :: rs, ?_, by simp [hLength], ?_, ?_⟩
    · rw [List.length_cons, Nat.add_right_comm]
      refine ((run_succ _ hStep).trans hRun).trans (congrArg (core.run n) ?_)
      rw [State.afterBytes, State.afterBytes, decNext_returned, List.append_assoc]
      rfl
    · rw [messagesOf_decByte_cons, hMsgs, List.map_append]
    · rw [List.forall_mem_cons, ← hStatus]
      exact joined_status_eq_ok_iff

/-- Settles O28: the commands of the bytes leave the DEC of `Dec.bytes`, the last command is DEC.END. -/
theorem arrivalRunsAsItsCommands : Obligations.ArrivalRunsAsItsCommands := by
  intro s ts bytes rest a hInput h
  obtain ⟨a', hBytes, rfl⟩ := arrival_eq_ok h
  rw [arrivalCommands, List.append_assoc] at hInput
  obtain ⟨rs, hRun, hLength, hMsgs, hStatus⟩ := run_byte_commands 1 hInput hBytes
  have hEnd : step (s.afterBytes a' (⟨s.streams.index, encode .decEnd⟩ :: rest) rs) = _ :=
    step_of_own_command (i := .decEnd) rfl rfl rfl
  have hStatuses := status_eq_ok_or_overflow_of_bytes hBytes
  refine ⟨_, rs ++ [⟨some s.streams.index, .decEnd .ok⟩], hRun.trans (run_succ 0 hEnd), ?_, by simp [hLength], ?_, ?_,
    hStatuses⟩
  · rw [← List.append_assoc]
    rfl
  · simpa [messagesOf] using hMsgs
  · simp [hStatus, or_imp, forall_and, Result.status]

end Sys2Proof.Machine
end

section
/-! PROOFS. The byte-serial decoder and the source's whole-buffer algorithm (40_decoder.md R150), by the algorithm's own
recursion. -/

namespace Sys2Proof.Machine

theorem consMessage_none (ts : Stamp) (r : Option (List Message × Option (List Byte))) : consMessage none ts r = r := by
  cases r <;> rfl

theorem consMessage_eq_some {body : Option Body} {ts : Stamp} {r : Option (List Message × Option (List Byte))}
    {msgs : List Message} {left : Option (List Byte)} (h : consMessage body ts r = some (msgs, left)) :
    ∃ rest, r = some (rest, left) ∧ msgs = (body.map (⟨·, ts⟩)).toList ++ rest := by
  cases r with
  | none => cases h
  | some x =>
    cases h
    exact ⟨_, rfl, rfl⟩

/-- One step of the scan: DEC does the same with its bytes `xs`, and agrees on the rest. -/
theorem bytes_of_scan_step {cap : Nat} {ts : Stamp} {d : Dec} {xs rest : List Byte} {body : Option Body}
    {c left : Option (List Byte)} {msgs : List Message}
    (hStep : ∃ d₁, d.bytes cap ts xs = .ok ⟨d₁, .ok, (body.map (⟨·, ts⟩)).toList⟩ ∧ d₁.holds c)
    (hRest : ∀ (d : Dec) (msgs : List Message), d.holds c → wholeBuffer cap ts c rest = some (msgs, left) →
      ∃ d', d.bytes cap ts rest = .ok ⟨d', .ok, msgs⟩ ∧ d'.holds left)
    (h : consMessage body ts (wholeBuffer cap ts c rest) = some (msgs, left)) :
    ∃ d', d.bytes cap ts (xs ++ rest) = .ok ⟨d', .ok, msgs⟩ ∧ d'.holds left := by
  obtain ⟨d₁, hFirst, hHolds⟩ := hStep
  obtain ⟨msgs', hScan, rfl⟩ := consMessage_eq_some h
  obtain ⟨d', hSecond, hLeft⟩ := hRest d₁ msgs' hHolds hScan
  exact ⟨d', bytes_ok_append hFirst hSecond, hLeft⟩

theorem bytes_of_realTime {cap : Nat} {ts : Stamp} {d : Dec} {b : Byte} {c : Option (List Byte)} (hHolds : d.holds c)
    (hByte : 0xF8#8 ≤ b) :
    ∃ d₁, d.bytes cap ts [b] = .ok ⟨d₁, .ok, ((realTimeBody b).map (⟨·, ts⟩)).toList⟩ ∧ d₁.holds c := by
  refine ⟨d, ?_, hHolds⟩
  rw [bytes_ok_cons (byte_of_realTime ts hHolds.1 hByte) bytes_nil, List.append_nil]

theorem exists_buildBody {s : Byte} (d0 d1 : Data7) (h : ndata s ≠ 0) : ∃ body, buildBody s d0 d1 = some body :=
  Option.ne_none_iff_exists'.1 (mt buildBody_eq_none_iff.1 h)

theorem bytes_of_wholeBuffer {cap : Nat} {ts : Stamp} {d : Dec} {capture left : Option (List Byte)} {bytes : List Byte}
    {msgs : List Message} (hHolds : d.holds capture) (h : wholeBuffer cap ts capture bytes = some (msgs, left)) :
    ∃ d', d.bytes cap ts bytes = .ok ⟨d', .ok, msgs⟩ ∧ d'.holds left := by
  fun_induction wholeBuffer cap ts capture bytes generalizing d msgs with
  | case1 capture =>
    cases h
    exact ⟨d, rfl, hHolds⟩
  | case2 p b rest hByte ih => exact bytes_of_scan_step (xs := [b]) (bytes_of_realTime hHolds hByte) (fun _ _ => ih) h
  | case3 p rest _ ih =>
    have hClosed : ({ d with sxOpen := false, sxLen := 0 } : Dec).holds none := by
      obtain ⟨hFault, hNeed, hHave, -⟩ := hHolds
      exact ⟨hFault, hNeed, hHave, rfl⟩
    exact bytes_of_scan_step (xs := [0xF7#8]) ⟨_, bytes_of_holds_end ts hHolds, hClosed⟩ (fun _ _ => ih) h
  | case4 p b rest _ _ hByte ih =>
    obtain ⟨hLow, hRoom⟩ := hByte
    obtain ⟨d₁, hStore, hHolds⟩ := byte_of_holds (b := b) ts hHolds (by bv_omega) hRoom
    rw [← consMessage_none ts (wholeBuffer ..)] at h
    exact bytes_of_scan_step (xs := [b]) ⟨d₁, bytes_ok_cons hStore bytes_nil, hHolds⟩ (fun _ _ => ih) h
  | case6 b rest hByte ih => exact bytes_of_scan_step (xs := [b]) (bytes_of_realTime hHolds hByte) (fun _ _ => ih) h
  | case7 rest _ ih =>
    obtain ⟨hFault, -, -, hOpen⟩ := hHolds
    rw [← consMessage_none ts (wholeBuffer ..)] at h
    exact bytes_of_scan_step (xs := [0xF0#8])
      ⟨_, bytes_ok_cons (byte_of_sysExStart ts hFault hOpen) bytes_nil, holds_openSysEx hFault⟩ (fun _ _ => ih) h
  | case9 b rest _ _ _ hByte ih =>
    obtain ⟨hFault, hNeed, -, hOpen⟩ := id hHolds
    rw [← consMessage_none ts (wholeBuffer ..)] at h
    exact bytes_of_scan_step (xs := [b])
      ⟨d, bytes_ok_cons (byte_of_stray ts hFault hOpen hByte hNeed) bytes_nil, hHolds⟩ (fun _ _ => ih) h
  | case10 b rest hLow hStart hEnd hStatus hCount ih =>
    obtain ⟨hFault, -, -, hOpen⟩ := hHolds
    have hClosed : d.clearPending.holds none := ⟨hFault, rfl, rfl, hOpen⟩
    have hRows : ∀ b : Byte, ¬ 0xF8#8 ≤ b → ¬ b = 0xF0#8 → ¬ b = 0xF7#8 → ¬ b < 0x80#8 → ndata b = 0 →
        b = 0xF6#8 ∨ b = 0xF4#8 ∨ b = 0xF5#8 := by decide
    refine bytes_of_scan_step (xs := [b]) ⟨d.clearPending, ?_, hClosed⟩ (fun _ _ => ih) h
    obtain rfl | rfl | rfl := hRows b hLow hStart hEnd hStatus hCount
    · exact bytes_ok_cons (byte_of_tuneRequest ts hFault hOpen) bytes_nil
    · exact bytes_ok_cons (byte_of_reserved ts hFault hOpen (by decide)) bytes_nil
    · exact bytes_ok_cons (byte_of_reserved ts hFault hOpen (by decide)) bytes_nil
  | case12 b _ _ _ _ _ x rest hData hCount ih =>
    obtain ⟨hFault, -, -, hOpen⟩ := hHolds
    obtain ⟨body, hBody⟩ := exists_buildBody (s := b) (low7 x) 0 (by simp [hCount])
    have hStep := bytes_of_oneData (cap := cap) ts hFault hOpen hCount hBody
    rw [dataByte_low7_of_lt hData] at hStep
    rw [hBody] at h
    exact bytes_of_scan_step (xs := [b, x]) (body := some body) hStep (fun _ _ => ih) h
  | case14 b _ _ _ _ hNone x hData hMore y rest hData' ih =>
    obtain ⟨hFault, -, -, hOpen⟩ := hHolds
    obtain ⟨body, hBody⟩ := exists_buildBody (low7 x) (low7 y) hNone
    have hLe := ndata_le_two b
    have hStep := bytes_of_twoData (cap := cap) ts hFault hOpen (by omega) hBody
    rw [dataByte_low7_of_lt hData, dataByte_low7_of_lt hData'] at hStep
    rw [hBody] at h
    exact bytes_of_scan_step (xs := [b, x, y]) (body := some body) hStep (fun _ _ => ih) h
  | case5 | case8 | case11 | case13 | case15 | case16 => cases h

/-- Settles O29: DEC.END keeps what DEC holds. -/
theorem agreesWithTheWholeBufferAlgorithm : Obligations.AgreesWithTheWholeBufferAlgorithm := by
  intro cap d ts capture left bytes msgs hHolds h
  obtain ⟨d', hBytes, hLeft⟩ := bytes_of_wholeBuffer hHolds h
  exact ⟨_, arrival_of_bytes hBytes, holds_clearPending hLeft⟩

end Sys2Proof.Machine
end

section
/-! PROOFS. Every message has one wire form (30_encoding.md R89): what DEC has in progress is never longer than the
bytes it has read, and of the same length only if it is those bytes. -/

namespace Sys2Proof.Machine

/-! ## Byte strings that are another one or shorter -/

/-- `x` is `y`, or shorter than `y`. -/
def EqOrShorter (x y : List Byte) : Prop := x = y ∨ x.length < y.length

theorem eqOrShorter_nil (y : List Byte) : EqOrShorter [] y := by
  cases y with
  | nil => exact .inl rfl
  | cons b y => exact .inr (by simp)

theorem eqOrShorter_append (x y : List Byte) : EqOrShorter x (x ++ y) := by
  cases y with
  | nil => exact .inl (by simp)
  | cons b y => exact .inr (by simp)

/-- A last byte alone. -/
theorem eqOrShorter_last (x : List Byte) (b : Byte) : EqOrShorter [b] (x ++ [b]) := by
  cases x with
  | nil => exact .inl rfl
  | cons c x => exact .inr (by simp)

theorem EqOrShorter.trans {x y z : List Byte} (hxy : EqOrShorter x y) (hyz : EqOrShorter y z) : EqOrShorter x z := by
  obtain rfl | hxy := hxy
  · exact hyz
  · obtain rfl | hyz := hyz
    · exact .inr hxy
    · exact .inr (hxy.trans hyz)

theorem EqOrShorter.append_right {x y : List Byte} (h : EqOrShorter x y) (z : List Byte) :
    EqOrShorter (x ++ z) (y ++ z) := by
  obtain rfl | h := h
  · exact .inl rfl
  · exact .inr (by simp [h])

/-! ## The message in progress -/

/-- The bytes of the message that DEC has in progress. -/
inductive InProgress (d : Dec) : List Byte → Prop
  | faulted (hFault : d.decFault = true) : InProgress d []
  | idle (hFault : d.decFault = false) (hOpen : d.sxOpen = false) (hNeed : d.pendNeed = 0) : InProgress d []
  | started (hFault : d.decFault = false) (hOpen : d.sxOpen = false) (hNeed : d.pendNeed ≠ 0) (hHave : d.pendHave = 0)
      (hCount : d.pendNeed.toNat = ndata d.pendStatus) : InProgress d [d.pendStatus]
  | held (hFault : d.decFault = false) (hOpen : d.sxOpen = false) (hNeed : d.pendNeed = 1) (hHave : d.pendHave = 1)
      (hCount : ndata d.pendStatus = 2) : InProgress d [d.pendStatus, dataByte d.pendD0]
  | capturing (hFault : d.decFault = false) (hOpen : d.sxOpen = true) {q : List Byte}
      (hRun : Memory.readRun d.sxBuf 0 d.sxLen = some q) : InProgress d (0xF0#8 :: q)

section
variable {d : Dec} {q : List Byte} (h : InProgress d q) (hFault : d.decFault = false)
include h hFault

theorem InProgress.eq_of_open (hOpen : d.sxOpen = true) :
    ∃ p, q = 0xF0#8 :: p ∧ Memory.readRun d.sxBuf 0 d.sxLen = some p := by
  cases h with
  | capturing _ _ hRun => exact ⟨_, rfl, hRun⟩
  | faulted hFaulted => simp [hFault] at hFaulted
  | idle _ hClosed | started _ hClosed | held _ hClosed => simp [hOpen] at hClosed

theorem InProgress.eq_of_pending (hOpen : d.sxOpen = false) (hNeed : d.pendNeed ≠ 0) :
    (q = [d.pendStatus] ∧ d.pendHave = 0 ∧ d.pendNeed.toNat = ndata d.pendStatus) ∨
    (q = [d.pendStatus, dataByte d.pendD0] ∧ d.pendHave = 1 ∧ d.pendNeed = 1 ∧ ndata d.pendStatus = 2) := by
  cases h with
  | started _ _ _ hHave hCount => exact .inl ⟨rfl, hHave, hCount⟩
  | held _ _ hNeed hHave hCount => exact .inr ⟨rfl, hHave, hNeed, hCount⟩
  | faulted hFaulted => simp [hFault] at hFaulted
  | idle _ _ hNone => exact absurd hNone hNeed
  | capturing _ hCaptures => simp [hOpen] at hCaptures

end

section
variable {cap : Nat} {d : Dec} {b : Byte} {ts : Stamp} {o : DecOut} {q : List Byte}

/-- The wire form of a message that a byte emits: what was in progress and that byte, or shorter. -/
theorem ByteCase.bytes_msg {m : Message} (h : ByteCase cap d b ts (.ok o)) (hProgress : InProgress d q)
    (hMsg : o.msg = some m) : EqOrShorter m.body.bytes (q ++ [b]) := by
  cases h with
  | realTime =>
    obtain ⟨body, hBody, rfl⟩ := Option.map_eq_some_iff.1 hMsg
    rw [(realTimeBody_spec hBody).2]
    exact eqOrShorter_last q b
  | tuneRequest _ _ hByte =>
    cases hMsg
    subst hByte
    exact eqOrShorter_last q _
  | terminate hFault hOpen hByte hRun =>
    cases hMsg
    subst hByte
    obtain ⟨p, rfl, hRun'⟩ := hProgress.eq_of_open hFault hOpen
    cases hRun.symm.trans hRun'
    exact .inl rfl
  | complete hFault hOpen hByte hNeed hBody =>
    cases hMsg
    refine .inl ((body_bytes_of_buildBody hBody).trans ?_)
    obtain ⟨rfl, hHave, hCount⟩ | ⟨rfl, hHave, -, hCount⟩ := hProgress.eq_of_pending hFault hOpen (by simp [hNeed])
    · simp [← hCount, hNeed, hHave, dataByte_low7_of_lt hByte]
    · simp [hCount, hHave, dataByte_low7_of_lt hByte]
  | discard | store | overflow | stray | hold | start | openSysEx | reserved => cases hMsg

/-- What is in progress after a byte that emits nothing: what was before and that byte, or shorter. -/
theorem ByteCase.inProgress (h : ByteCase cap d b ts (.ok o)) (hProgress : InProgress d q) (hMsg : o.msg = none) :
    ∃ q', InProgress o.dec q' ∧ EqOrShorter q' (q ++ [b]) := by
  cases h with
  | discard hFault => exact ⟨[], .faulted hFault, eqOrShorter_nil _⟩
  | overflow => exact ⟨[], .faulted rfl, eqOrShorter_nil _⟩
  | realTime => exact ⟨q, hProgress, eqOrShorter_append q [b]⟩
  | stray hFault hOpen _ hNeed => exact ⟨[], .idle hFault hOpen hNeed, eqOrShorter_nil _⟩
  | reserved hFault hOpen => exact ⟨[], .idle hFault hOpen rfl, eqOrShorter_nil _⟩
  | start hFault hOpen hByte =>
    have hLe := ndata_le_two b
    exact ⟨[b], .started hFault hOpen (by bv_omega) rfl (by simp; omega), eqOrShorter_last q b⟩
  | openSysEx hFault hOpen hByte =>
    subst hByte
    refine ⟨[0xF0#8], .capturing ?_ rfl ?_, eqOrShorter_last q _⟩
    · exact hFault
    · rfl
  | store hFault hOpen =>
    obtain ⟨p, rfl, hRun⟩ := hProgress.eq_of_open hFault hOpen
    refine ⟨0xF0#8 :: (p ++ [b]), .capturing ?_ ?_ ?_, .inl rfl⟩
    · exact hFault
    · exact hOpen
    · exact Memory.readRun_write_end b hRun
  | hold hFault hOpen hByte hNeed hMore =>
    obtain ⟨rfl, -, hCount⟩ | ⟨-, -, hOne, -⟩ := hProgress.eq_of_pending hFault hOpen hNeed
    · have hLe := ndata_le_two d.pendStatus
      refine ⟨[d.pendStatus, dataByte (low7 b)], .held hFault hOpen rfl rfl ?_, .inl ?_⟩
      · have hTwo : 2 ≤ d.pendNeed.toNat := by bv_omega
        show ndata d.pendStatus = 2
        omega
      · rw [dataByte_low7_of_lt hByte]
        rfl
    · exact absurd hOne hMore
  | terminate | complete | tuneRequest => cases hMsg

theorem bytes_first_message {bytes : List Byte} {a : ArrivalOut} {m : Message} {rest : List Message}
    (hProgress : InProgress d q) (h : d.bytes cap ts bytes = .ok a) (hMsgs : a.msgs = m :: rest) :
    EqOrShorter m.body.bytes (q ++ bytes) := by
  induction bytes generalizing d q a with
  | nil =>
    cases h
    cases hMsgs
  | cons b bytes ih =>
    obtain ⟨o, a', hByte, hRest, rfl⟩ := bytes_cons_eq_ok h
    have hCase := byteCase_of_eq hByte
    rw [List.append_cons]
    cases hMsg : o.msg with
    | some m' =>
      obtain rfl : m' = m := by simpa [hMsg] using (List.cons.inj (by simpa [hMsg] using hMsgs)).1
      exact (hCase.bytes_msg hProgress hMsg).trans (eqOrShorter_append _ _)
    | none =>
      obtain ⟨q', hProgress', hShorter⟩ := hCase.inProgress hProgress hMsg
      exact (ih hProgress' hRest (by simpa [hMsg] using hMsgs)).trans (hShorter.append_right bytes)

end

/-- Settles O59: an idle DEC has nothing in progress, so a message's wire form is the arrival or shorter. -/
theorem eachMessageHasOneWireForm : Obligations.EachMessageHasOneWireForm := by
  intro cap d ts bytes body a hIdle h hMsgs hLength
  obtain ⟨hFault, hOpen, hNeed⟩ := mode_eq_idle_iff.1 hIdle
  obtain ⟨a', hBytes, rfl⟩ := arrival_eq_ok h
  obtain hEq | hShorter := bytes_first_message (.idle hFault hOpen hNeed) hBytes hMsgs
  · exact hEq.symm
  · exact absurd hShorter (by simpa using hLength)

end Sys2Proof.Machine
end
